-- ==== Sys2Proof/Word.lean ====
section
/-! DEFINITION. The value types of the block (00_scope.md R9): bytes, frames, byte registers of a fixed length. -/

namespace Sys2Proof

/-- A byte, and equally a character: characters are 8-bit ASCII codes (00_scope.md R9, R8 `CHAR_WIDTH`). -/
abbrev Byte := BitVec 8

/-- A frame: a finite sequence of bytes, delivered whole by a port (30_encoding.md R80, 20_memory.md R50). -/
abbrev Frame := List Byte

/-- A byte sequence of exactly `n` bytes, index 0 first: what a byte register of 10_state.md R21 holds. -/
abbrev Bytes (n : Nat) := { l : List Byte // l.length = n }

/-- 20 bytes: a digest, a SHA-1 reply or a decoded key (30_encoding.md R83 `dig20`, `key20`). -/
abbrev Digest := Bytes 20

/-- An unsigned 64-bit integer: `nowMillis` and the counter (00_scope.md R8 `NOW_WIDTH`). -/
abbrev Word64 := BitVec 64

/-- An unsigned 32-bit integer: `binCode`, the code, a word of SHA-1 (44_sha1_collaborator.md R213). -/
abbrev Word32 := BitVec 32

/-- The byte register whose every byte is 0, its value when idle (70_reset_and_hazards.md R280). -/
def zeroBytes (n : Nat) : Bytes n := ⟨List.replicate n 0, List.length_replicate⟩

/-- The bytes of a text of ASCII characters (00_scope.md R9: `"AB"` denotes `0x41 0x42`). -/
def ascii (text : String) : List Byte := text.toList.map fun c => BitVec.ofNat 8 c.toNat

end Sys2Proof
end

