-- ==== Sys2Proof/Config.lean ====
section
/-! DEFINITION. What is fixed for the machine: the constants of 00_scope.md R7, and its open parameters (R8). -/

namespace Sys2Proof.Config

/-- A label; no rule reads it (00_scope.md R2). -/
def coreVersion : Nat := 1

/-- HMAC block size in bytes (00_scope.md R7 `BLOCK_SIZE`). -/
def blockSize : Nat := 64

/-- Outer pad byte (R7 `OPAD`). -/
def opadByte : Byte := 0x5c

/-- Inner pad byte (R7 `IPAD`). -/
def ipadByte : Byte := 0x36

/-- Length of a secret in characters (R7 `SECRET_LEN`). -/
def secretLen : Nat := 32

/-- Bits one base32 character supplies (R7 `B32_BITS`). -/
def b32Bits : Nat := 5

/-- The 32 base32 symbols in their order (R7 `ALPHABET`, 30_encoding.md R97). -/
def alphabet : List Byte := ascii "ABCDEFGHIJKLMNOPQRSTUVWXYZ234567"

/-- Milliseconds per second (R7 `MS_PER_S`). -/
def msPerS : Nat := 1000

/-- The TOTP window in seconds (R7 `TIME_STEP`). -/
def timeStep : Nat := 30

/-- Width of the serialized counter in bytes (R7 `CTR_BYTES`). -/
def ctrBytes : Nat := 8

/-- Mask of the last digest byte that gives the offset (R7 `OFFSET_MASK`). -/
def offsetMask : Byte := 0x0F

/-- Mask of the first selected byte (R7 `SIGN_MASK`). -/
def signMask : Byte := 0x7F

/-- Modulus of the 6-digit code (R7 `CODE_MOD`). -/
def codeMod : Nat := 1000000

/-- Largest operand length of B2HEX (30_encoding.md R88, 40_hex_codec.md R128). -/
def b2hexMax : Nat := 0x7FFFFFFF

/-- A blob's length is below this bound (00_scope.md R8 `LEN_WIDTH`). -/
def blobBound : Nat := 2 ^ 32

/-- `HEX_UPPER`, the open parameter of 00_scope.md R8 and 30_encoding.md R95: whether `'A'` to `'F'` are hex digits. -/
inductive HexUpper
  | accept
  | reject
  deriving DecidableEq, Repr

/-- The 160 bits an arbitrary function `SHA1` answers for a message (00_scope.md R8 `SHA1`, 44_sha1_collaborator.md
R210: "A model takes `SHA1` as an argument"). A free value: it has no body, nothing evaluates it. Log 2. -/
opaque sha1Bits : List Byte → BitVec 160

end Sys2Proof.Config
end

