-- ==== Sys2Proof/Machine/State.lean ====
section
/-! DEFINITION. The state of the block (10_state.md R20), the ports' outside halves, the machine after reset, and why
a step can stop. -/

namespace Sys2Proof.Machine

/-- The values of the 3-bit register `PHASE` (10_state.md R24). Its values 6 and 7 are "never taken", and no
constructor stands for them (93_implementation_defined.md U7). -/
inductive Phase
  | idle
  | exec
  | waitKeyhash
  | waitInner
  | waitOuter
  | respond
  deriving DecidableEq, Repr

/-- The events at the ports (10_state.md section 7). -/
inductive Event
  /-- `cmd?f`: the host's frame is accepted. -/
  | cmd (f : Frame)
  /-- `hash!m`: the block sends a request. -/
  | hashReq (m : Frame)
  /-- `hash?r`: the collaborator's reply arrives. -/
  | hashReply (r : Digest)
  /-- `rsp!g`: the block emits a response. -/
  | rsp (g : Frame)
  /-- `reset`: the host asserts reset. -/
  | reset
  deriving DecidableEq, Repr

/-- Which SHA-1 collaborator is attached to the HASH port (20_memory.md R59, 44_sha1_collaborator.md R221). Log 2, log 13. -/
inductive Collaborator
  /-- The reference instantiation, FIPS 180-1 (R211). -/
  | fips180
  /-- Any total function from byte sequences to 20 bytes (R210, 00_scope.md R8 `SHA1`), the free value `Config.sha1Bits`. -/
  | function
  /-- An oracle with its answers to come, first one first (R59 (b)); with none left it never answers (R287). -/
  | oracle (replies : List Digest)
  deriving DecidableEq, Repr

/-- Everything the spec gives the machine (10_state.md R20, R21, R28; 20_memory.md R50, R51), the machine's
parameters, and the trace of port events. -/
structure State where
  /-- `PHASE` (R24). -/
  phase : Phase
  /-- `OP`: opcode of the command in progress (R28). -/
  op : Byte
  /-- `ERR`: status code of the command in progress (R28). -/
  err : Byte
  /-- `NOW` (R21). -/
  now : Word64
  /-- `KEYB` (R21). -/
  keyb : Bytes 20
  /-- `CNT` (R21). -/
  cnt : Word64
  /-- `CHEX` (R21). -/
  chex : Bytes 16
  /-- `CBYTES` (R21). -/
  cbytes : Bytes 8
  /-- `KBLK` (R21). -/
  kblk : Bytes 64
  /-- `IHASH` (R21). -/
  ihash : Digest
  /-- `DIG` (R21). -/
  dig : Digest
  /-- `OFF` (R21). -/
  off : BitVec 4
  /-- `BIN` (R21). -/
  bin : Word32
  /-- `CODE` (R21). -/
  code : Word32
  /-- `OPA` (20_memory.md R51). -/
  opa : List Byte
  /-- `OPB` (20_memory.md R51). -/
  opb : List Byte
  /-- `RES` (20_memory.md R51). -/
  res : List Byte
  /-- The request outstanding on the HASH port (R29, 20_memory.md R56). -/
  hashPort : Option Frame
  /-- The frames the host presents at the CMD port, oldest first, not yet accepted (R30). Log 4. -/
  cmdPort : List Frame
  /-- Whether the host takes a response now (70_reset_and_hazards.md R286 item 3). Log 4. -/
  rspReady : Bool
  /-- The reset input (70_reset_and_hazards.md R282). Log 4. -/
  resetIn : Bool
  /-- `HEX_UPPER` (00_scope.md R8). No transition writes it. Log 3. -/
  hexUpper : Config.HexUpper
  /-- The agent on the other side of the HASH port (00_scope.md R14). Log 2. -/
  collaborator : Collaborator
  /-- The MODEL'S OWN field: the port events so far, oldest first. No transition reads it. Log 5. -/
  trace : List Event
  deriving DecidableEq, Repr

/-- The machine right after reset (70_reset_and_hazards.md R280). The last six fields are the outside's: logs 2 to 5. -/
def State.reset : State where
  phase := .idle
  op := 0
  err := 0
  now := 0
  keyb := zeroBytes 20
  cnt := 0
  chex := zeroBytes 16
  cbytes := zeroBytes 8
  kblk := zeroBytes 64
  ihash := zeroBytes 20
  dig := zeroBytes 20
  off := 0
  bin := 0
  code := 0
  opa := []
  opb := []
  res := []
  hashPort := none
  cmdPort := []
  rspReady := true
  resetIn := false
  hexUpper := .accept
  collaborator := .fips180
  trace := []

/-- Why the machine can stop with a fault. No command faults: the spec's errors are responses (60_exceptions.md R240, R247). -/
inductive Fault
  /-- Raised by the outer-hash reply (10_state.md R34) when `OP` is neither HMAC nor DERIVE. R34 has no case for it and
  no transition reaches it. Safe: the model stops where the spec says nothing. Log 8. -/
  | outerWithoutCommand
  deriving DecidableEq, Repr

/-- Why the machine can refuse to go on. -/
inductive Refusal
  /-- Raised by `exec` for an instruction that has no meaning in the model yet; no arm raises it. Safe. -/
  | notModelled (mnemonic : String)
  /-- Raised by the execute transition (10_state.md R31) when `OP` is none of the eight opcodes, or is TRUNC beside an
  `OPA` that is not 20 bytes: R28 "an unassigned opcode is never latched". Safe: no transition reaches it. Log 8. -/
  | unassignedOp
  deriving DecidableEq, Repr

end Sys2Proof.Machine
end

