-- ==== Sys2Proof/Syntax.lean ====
section
/-! DEFINITION. The commands (30_encoding.md R85) and what else a frame can be read as. -/

namespace Sys2Proof

/-- One command with its operands, one constructor per row of the opcode map (30_encoding.md R85). What R83 and R84
fix about an operand's size (a digest of 20 bytes, a time of 64 bits) is in its type; the length limits of blobs are
in `Instr.wf`. -/
inductive Instr
  /-- HEX2B: `a` the hex text (40_hex_codec.md R121). -/
  | hex2b (a : List Byte)
  /-- B2HEX: `a` the bytes (40_hex_codec.md R126). -/
  | b2hex (a : List Byte)
  /-- B32DEC: `a` the secret (41_base32_decoder.md R141). -/
  | b32dec (a : List Byte)
  /-- HMAC: `key`, `message` (42_hmac_engine.md R161). -/
  | hmac (key message : List Byte)
  /-- CTR: `t` is `nowMillis` (43_totp_deriver.md R181). -/
  | ctr (t : Word64)
  /-- TRUNC: `d` the digest (43_totp_deriver.md R185). -/
  | trunc (d : Digest)
  /-- DERIVE: `secret`, and `t` is `nowMillis` (43_totp_deriver.md R191). -/
  | derive (secret : List Byte) (t : Word64)
  /-- SECREM: `t` is `nowMillis` (43_totp_deriver.md R197). -/
  | secrem (t : Word64)
  deriving DecidableEq, Repr

/-- Why a frame is no command (60_exceptions.md R240 class (b)). -/
inductive FrameError
  /-- A reserved opcode (R241). -/
  | illegalCommand
  /-- The empty frame, or a length that does not match the content (R242). -/
  | malformedFrame
  deriving DecidableEq, Repr

/-- The error kinds a command's own semantics raise (60_exceptions.md R240 class (a), R243). -/
inductive CommandError
  /-- Wrong length or a character outside the alphabet: B32DEC, DERIVE. -/
  | invalidSecretFormat
  /-- Odd length or a character that is no hex digit: HEX2B. -/
  | malformedHex
  deriving DecidableEq, Repr

end Sys2Proof
end

