-- ==== Sys2Proof/Machine/Flags.lean ====
section
/-! DEFINITION. "The block has no condition codes and no arithmetic flags" (10_state.md R27). The two status values
there are: BUSY, and the status codes `ERR` holds (30_encoding.md R90). -/

namespace Sys2Proof.Machine

/-- `BUSY = (PHASE != IDLE)` (10_state.md R27). -/
def State.busy (s : State) : Bool := s.phase != .idle

/-- Whether the CMD port shows ready: `PHASE = 0` (10_state.md R28). -/
def State.cmdReady (s : State) : Bool := !s.busy

/-- `OK` (30_encoding.md R90). -/
def statusOk : Byte := 0x00

/-- The status of the source's third error kind, reserved: no command emits it (30_encoding.md R90, 60_exceptions.md R248). -/
def statusInsufficientEntropy : Byte := 0x03

/-- The status code of a command's own error (30_encoding.md R90). -/
def commandStatus : CommandError → Byte
  | .invalidSecretFormat => 0x01
  | .malformedHex => 0x02

/-- The status code of a frame error (30_encoding.md R90). -/
def frameStatus : FrameError → Byte
  | .illegalCommand => 0x80
  | .malformedFrame => 0x81

end Sys2Proof.Machine
end

