-- ==== Sys2Proof/Machine/Bytes.lean ====
section
/-! DEFINITION. Byte order and byte registers: `be`, `unbe` (00_scope.md R11), right padding with zeros (42_hmac_engine.md
R160 step 2), a slice of a buffer (00_scope.md R12 `MemRead`). -/

namespace Sys2Proof

/-- `be(v, n)`: the `n` bytes of `v`, most significant first (00_scope.md R11). Its domain there is `v < 2^(8n)`;
outside it the higher bits are dropped (log 14). -/
def be (v : Nat) : Nat → List Byte
  | 0 => []
  | n + 1 => BitVec.ofNat 8 (v >>> (8 * n)) :: be v n

/-- `unbe(b)`: the unsigned integer whose big-endian bytes are `b` (00_scope.md R11). -/
def unbe (b : List Byte) : Nat := b.foldl (fun v x => v * 256 + x.toNat) 0

theorem length_be (v n : Nat) : (be v n).length = n := by
  induction n with
  | zero => rfl
  | succ n ih => simp [be, ih]

/-- `be(v, n)` as a byte register. -/
def beBytes (n v : Nat) : Bytes n := ⟨be v n, length_be v n⟩

/-- The first `n` bytes of `b ‖ zeros(n)`: `b ‖ zeros(n - len(b))` when `len(b) ≤ n` (42_hmac_engine.md R160 step 2). -/
def padRight (n : Nat) (b : List Byte) : Bytes n := ⟨(b ++ List.replicate n 0).take n, by simp⟩

/-- `MemRead(space, addr, n)` of a byte buffer: `b[addr..addr+n]` (00_scope.md R12, 20_memory.md R51). -/
def slice (b : List Byte) (addr n : Nat) : List Byte := (b.drop addr).take n

end Sys2Proof
end

