-- ==== Sys2Proof/WellFormed.lean ====
section
/-! DEFINITION. Which commands have a frame (30_encoding.md R92: "whose fields are in range"). -/

namespace Sys2Proof

/-- A blob's length fits the 32-bit length field (30_encoding.md R82, R92). -/
def blobFits (a : List Byte) : Bool := decide (a.length < Config.blobBound)

/-- The fields are in range (30_encoding.md R92): `len(a)`, `len(b) < 2^32`, and `len(a) < 2^31` for B2HEX. That a
digest has 20 bytes and a time is below `2^64` is in the operand's type. -/
def Instr.wf : Instr → Bool
  | .hex2b a => blobFits a
  | .b2hex a => decide (a.length ≤ Config.b2hexMax)
  | .b32dec a => blobFits a
  | .hmac key message => blobFits key && blobFits message
  | .ctr _ => true
  | .trunc _ => true
  | .derive secret _ => blobFits secret
  | .secrem _ => true

end Sys2Proof
end

