-- ==== Sys2Proof/Decode.lean ====
section
/-! DEFINITION. Reading a command frame (30_encoding.md R88 `parse`), its length from its content (R91), writing a
command as its frame (R92 `encode`), and the reading of a row of the opcode table. -/

namespace Sys2Proof

/-! ### parse (R88) -/

/-- `blob()` of `parse` (R88, R82): a 4-byte big-endian length and that many bytes; what is read, and what is left. -/
def takeBlob (r : List Byte) : Except FrameError (List Byte × List Byte) :=
  if r.length < 4 then .error .malformedFrame
  else if (r.drop 4).length < unbe (r.take 4) then .error .malformedFrame
  else .ok ((r.drop 4).take (unbe (r.take 4)), (r.drop 4).drop (unbe (r.take 4)))

/-- `fixed(n)` of `parse` (R88, R83): exactly `n` bytes, and what is left. -/
def takeFixed (n : Nat) (r : List Byte) : Except FrameError (Bytes n × List Byte) :=
  if h : n ≤ r.length then .ok (⟨r.take n, List.length_take_of_le h⟩, r.drop n) else .error .malformedFrame

/-- The end of `parse` (R88): bytes left over after the last field make the frame malformed. -/
def endFrame (i : Instr) : List Byte → Except FrameError Instr
  | [] => .ok i
  | _ :: _ => .error .malformedFrame

/-- A time field: a `u64`, big-endian, unsigned (R83, R89). -/
def timeOf (b : Bytes 8) : Word64 := BitVec.ofNat 64 (unbe b.val)

/-- The operand fields of format `B` (R84) for the command `mk`. -/
def parseB (mk : List Byte → Instr) (r : List Byte) : Except FrameError Instr :=
  match takeBlob r with
  | .error e => .error e
  | .ok (a, r) => endFrame (mk a) r

/-- The operand field of B2HEX: format `B`, and an operand above `0x7FFFFFFF` bytes is malformed (R88, R128). -/
def parseB2hex (r : List Byte) : Except FrameError Instr :=
  match takeBlob r with
  | .error e => .error e
  | .ok (a, r) => if Config.b2hexMax < a.length then .error .malformedFrame else endFrame (.b2hex a) r

/-- The operand fields of format `BB` (R84). -/
def parseBB (mk : List Byte → List Byte → Instr) (r : List Byte) : Except FrameError Instr :=
  match takeBlob r with
  | .error e => .error e
  | .ok (a, r) =>
    match takeBlob r with
    | .error e => .error e
    | .ok (b, r) => endFrame (mk a b) r

/-- The operand field of format `T` (R84). -/
def parseT (mk : Word64 → Instr) (r : List Byte) : Except FrameError Instr :=
  match takeFixed 8 r with
  | .error e => .error e
  | .ok (t, r) => endFrame (mk (timeOf t)) r

/-- The operand field of format `D` (R84). -/
def parseD (mk : Digest → Instr) (r : List Byte) : Except FrameError Instr :=
  match takeFixed 20 r with
  | .error e => .error e
  | .ok (d, r) => endFrame (mk d) r

/-- The operand fields of format `BT` (R84). -/
def parseBT (mk : List Byte → Word64 → Instr) (r : List Byte) : Except FrameError Instr :=
  match takeBlob r with
  | .error e => .error e
  | .ok (a, r) =>
    match takeFixed 8 r with
    | .error e => .error e
    | .ok (t, r) => endFrame (mk a (timeOf t)) r

/-- `parse(f)` (R88): total on every byte sequence. The opcode is looked at first, so a reserved opcode is
`IllegalCommand` whatever follows it; the empty frame has none and is malformed (R86, 60_exceptions.md R246). -/
def parse : Frame → Except FrameError Instr
  | [] => .error .malformedFrame
  | op :: r =>
    match op.toNat with
    | 1 => parseB .hex2b r
    | 2 => parseB2hex r
    | 3 => parseB .b32dec r
    | 4 => parseBB .hmac r
    | 5 => parseT .ctr r
    | 6 => parseD .trunc r
    | 7 => parseBT .derive r
    | 8 => parseT .secrem r
    | _ => .error .illegalCommand

/-! ### encode (R92) -/

/-- The opcode of a command (R85). -/
def opcode : Instr → Byte
  | .hex2b _ => 0x01
  | .b2hex _ => 0x02
  | .b32dec _ => 0x03
  | .hmac _ _ => 0x04
  | .ctr _ => 0x05
  | .trunc _ => 0x06
  | .derive _ _ => 0x07
  | .secrem _ => 0x08

/-- The `blob` field of a value (R82). -/
def blob (v : List Byte) : List Byte := be v.length 4 ++ v

/-- The operand fields of a command in the order its format gives (R84). -/
def operandFields : Instr → List Byte
  | .hex2b a => blob a
  | .b2hex a => blob a
  | .b32dec a => blob a
  | .hmac key message => blob key ++ blob message
  | .ctr t => be t.toNat 8
  | .trunc d => d.val
  | .derive secret t => blob secret ++ be t.toNat 8
  | .secrem t => be t.toNat 8

/-- `encode(c)` (R92): the frame R84 gives for a command, `opcode ‖ operand fields` (R81). -/
def encode (i : Instr) : Frame := opcode i :: operandFields i

/-! ### The length of a frame from its content (R91) -/

/-- The length field at byte `p` of a frame, bytes beyond its end read as 0. -/
def lengthField (f : Frame) (p : Nat) : Nat := unbe (padRight 4 (f.drop p)).val

/-- The frame length that byte 0 and the length fields determine (R91, R84); 1 for a reserved opcode, which is all
`parse` looks at. -/
def frameLength (f : Frame) : Nat :=
  match (f.getD 0 0).toNat with
  | 1 => 5 + lengthField f 1
  | 2 => 5 + lengthField f 1
  | 3 => 5 + lengthField f 1
  | 4 => 9 + lengthField f 1 + lengthField f (5 + lengthField f 1)
  | 5 => 9
  | 6 => 21
  | 7 => 13 + lengthField f 1
  | 8 => 9
  | _ => 1

/-! ### A row of spec/opcode_table.json -/

/-- The bytes of a table row's bits: bits 7..0 are the first byte, bits 15..8 the second. -/
def tableBytes (nbits w : Nat) : List Byte :=
  (List.range ((nbits + 7) / 8)).map fun i => BitVec.ofNat 8 (w >>> (8 * i))

/-- The frame of a table row: its bytes, and zeros up to the length they determine (R91). Log 11. -/
def tableFrame (nbits w : Nat) : Frame :=
  let b := tableBytes nbits w
  b ++ List.replicate (frameLength b - b.length) 0

/-- The command `parse` reads from a table row's frame, none where it is a frame error. -/
def decodeTableWord (nbits w : Nat) : Option Instr :=
  match parse (tableFrame nbits w) with
  | .ok i => some i
  | .error _ => none

end Sys2Proof
end

