-- ==== Sys2Proof/Machine/Operands.lean ====
section
/-! DEFINITION. The operands of a command: every one is carried by value (20_memory.md R64) and latched in `OPA`,
`OPB`, `NOW` (10_state.md R30). -/

namespace Sys2Proof.Machine

/-- The operand a command latches in `OPA`; for TRUNC the digest; empty where it has none (10_state.md R30). -/
def operandA : Instr → List Byte
  | .hex2b a => a
  | .b2hex a => a
  | .b32dec a => a
  | .hmac key _ => key
  | .ctr _ => []
  | .trunc d => d.val
  | .derive secret _ => secret
  | .secrem _ => []

/-- The operand a command latches in `OPB`, empty where it has none (10_state.md R30). -/
def operandB : Instr → List Byte
  | .hex2b _ => []
  | .b2hex _ => []
  | .b32dec _ => []
  | .hmac _ message => message
  | .ctr _ => []
  | .trunc _ => []
  | .derive _ _ => []
  | .secrem _ => []

/-- The operand a command latches in `NOW`, 0 where it has none (10_state.md R30). -/
def operandT : Instr → Word64
  | .hex2b _ => 0
  | .b2hex _ => 0
  | .b32dec _ => 0
  | .hmac _ _ => 0
  | .ctr t => t
  | .trunc _ => 0
  | .derive _ t => t
  | .secrem t => t

/-- The command whose opcode and operands the registers hold: the `case OP of` of the execute transition (10_state.md
R31). None where `OP` is no opcode, or TRUNC's operand is not 20 bytes; no accept latches such a state (R28). -/
def State.latched (s : State) : Option Instr :=
  match s.op.toNat with
  | 1 => some (.hex2b s.opa)
  | 2 => some (.b2hex s.opa)
  | 3 => some (.b32dec s.opa)
  | 4 => some (.hmac s.opa s.opb)
  | 5 => some (.ctr s.now)
  | 6 => if h : s.opa.length = 20 then some (.trunc ⟨s.opa, h⟩) else none
  | 7 => some (.derive s.opa s.now)
  | 8 => some (.secrem s.now)
  | _ => none

end Sys2Proof.Machine
end

