-- ==== Sys2Proof/Machine/Sha1.lean ====
section
/-! DEFINITION. The reference instantiation of the collaborator: SHA-1 as 44_sha1_collaborator.md R213 to R219 give
it. The block itself never computes it (R222); a collaborator of the kind `fips180` does. Log 12. -/

namespace Sys2Proof.Sha1

/-- `rotl(x, n)` on 32-bit words (R213). -/
def rotl (x : Word32) (n : Nat) : Word32 := (x <<< n) ||| (x >>> (32 - n))

/-- The number of zero bytes between `0x80` and the length (R214). -/
def padZeros (n : Nat) : Nat := (119 - n % 64) % 64

/-- `pad(m)` (R214): the last 8 bytes are the message length in bits. -/
def pad (m : List Byte) : List Byte :=
  m ++ [0x80] ++ List.replicate (padZeros m.length) 0 ++ be (8 * m.length) 8

/-- Five words: a chaining value, and the working variables `a` to `e` (R215, R218). -/
structure Hash where
  a : Word32
  b : Word32
  c : Word32
  d : Word32
  e : Word32
  deriving DecidableEq, Repr

/-- The initial hash value (R215). -/
def initial : Hash := ⟨0x67452301, 0xEFCDAB89, 0x98BADCFE, 0x10325476, 0xC3D2E1F0⟩

/-- The word formed from four bytes, big-endian (R213). -/
def word (b : List Byte) : Word32 := BitVec.ofNat 32 (unbe b)

/-- `W[0]` to `W[n-1]`, newest first, of the block `b` (R216, `t` in 0..15). -/
def firstWords (b : List Byte) : Nat → List Word32
  | 0 => []
  | n + 1 => word (slice b (4 * n) 4) :: firstWords b n

/-- The schedule word after the words `ws` (newest first): indices `t-3`, `t-8`, `t-14`, `t-16` (R216). -/
def nextWord (ws : List Word32) : Word32 :=
  rotl (ws.getD 2 0 ^^^ ws.getD 7 0 ^^^ ws.getD 13 0 ^^^ ws.getD 15 0) 1

/-- `n` more schedule words, newest first. -/
def extend (ws : List Word32) : Nat → List Word32
  | 0 => ws
  | n + 1 => extend (nextWord ws :: ws) n

/-- `W[0]` to `W[79]` in order (R216). -/
def schedule (b : List Byte) : List Word32 := (extend (firstWords b 16) 64).reverse

/-- `f(t; b, c, d)` (R217). -/
def roundF (t : Nat) (b c d : Word32) : Word32 :=
  if t < 20 then (b &&& c) ||| (~~~b &&& d)
  else if t < 40 then b ^^^ c ^^^ d
  else if t < 60 then (b &&& c) ||| (b &&& d) ||| (c &&& d)
  else b ^^^ c ^^^ d

/-- `K(t)` (R217). -/
def roundK (t : Nat) : Word32 :=
  if t < 20 then 0x5A827999
  else if t < 40 then 0x6ED9EBA1
  else if t < 60 then 0x8F1BBCDC
  else 0xCA62C1D6

/-- Round `t` with schedule word `w` (R218). -/
def round (t : Nat) (w : Word32) (h : Hash) : Hash :=
  ⟨rotl h.a 5 + roundF t h.b h.c h.d + h.e + roundK t + w, h.a, rotl h.b 30, h.c, h.d⟩

/-- The rounds from round `t` on, one for each schedule word left (R218). -/
def rounds (t : Nat) : List Word32 → Hash → Hash
  | [], h => h
  | w :: ws, h => rounds (t + 1) ws (round t w h)

/-- `compress(H, B)` (R218). -/
def compress (h : Hash) (b : List Byte) : Hash :=
  let r := rounds 0 (schedule b) h
  ⟨h.a + r.a, h.b + r.b, h.c + r.c, h.d + r.d, h.e + r.e⟩

/-- The first `n` 64-byte blocks of `p`, in order, into the hash value (R219). -/
def absorb : Nat → List Byte → Hash → Hash
  | 0, _, h => h
  | n + 1, p, h => absorb n (p.drop 64) (compress h (p.take 64))

/-- The five words as 20 bytes, big-endian (R219). -/
def output (h : Hash) : Digest :=
  ⟨be h.a.toNat 4 ++ be h.b.toNat 4 ++ be h.c.toNat 4 ++ be h.d.toNat 4 ++ be h.e.toNat 4, by simp [length_be]⟩

/-- `SHA1(m)` per FIPS 180-1 (R219). -/
def sha1 (m : List Byte) : Digest :=
  let p := pad m
  output (absorb (p.length / 64) p initial)

end Sys2Proof.Sha1
end

