-- ==== Sys2Proof/Machine/Ops.lean ====
section
/-! DEFINITION. The operations the transitions share: latching a command, raising an error and completing, the HASH
port, accepting a frame, responding, reset. -/

namespace Sys2Proof.Machine

/-- The outcomes of the block's transitions. -/
abbrev Outcome := Host.Outcome State Fault Refusal

/-! ### Latching, raising, completing -/

/-- The latch of the accept transition (10_state.md R30, case `Command`): opcode and operands into their registers,
`PHASE <- EXEC`. -/
def State.latch (i : Instr) (s : State) : State :=
  { s with op := opcode i, opa := operandA i, opb := operandB i, now := operandT i, phase := .exec }

/-- Taking an exception: `raise E` is exactly `ERR <- status(E); PHASE <- RESPOND` (60_exceptions.md R244). No state is
saved and nothing else changes. -/
def State.raise (status : Byte) (s : State) : State := { s with err := status, phase := .respond }

/-- Completing a command: its payload in `RES`, `ERR <- 0x00`, `PHASE <- RESPOND` (10_state.md R31, R34). -/
def State.complete (payload : List Byte) (s : State) : State :=
  { s with res := payload, err := statusOk, phase := .respond }

/-! ### The HASH port -/

/-- `hash!(m)` and the wait that follows: one whole message as one request (20_memory.md R56, 10_state.md R31 to R33). -/
def State.request (wait : Phase) (m : Frame) (s : State) : State :=
  { s with hashPort := some m, phase := wait, trace := s.trace ++ [.hashReq m] }

/-- What the free function answers: its 160 bits as 20 bytes. -/
def freeSha1 (m : Frame) : Digest := beBytes 20 (Config.sha1Bits m).toNat

/-- The collaborator's answer to a request, with the collaborator as it is then; none where it does not answer
(20_memory.md R56, R59; 70_reset_and_hazards.md R287). -/
def Collaborator.answer (c : Collaborator) (m : Frame) : Option (Digest × Collaborator) :=
  match c with
  | .fips180 => some (Sha1.sha1 m, .fips180)
  | .function => some (freeSha1 m, .function)
  | .oracle [] => none
  | .oracle (r :: rs) => some (r, .oracle rs)

/-- `hash?r`: the reply arrives and the request is no longer outstanding. -/
def State.reply (r : Digest) (c : Collaborator) (s : State) : State :=
  { s with hashPort := none, collaborator := c, trace := s.trace ++ [.hashReply r] }

/-- A `WAIT_` phase: on the reply to the outstanding request the transition `k` happens; without one the state does
not change (10_state.md R32 to R34; 70_reset_and_hazards.md R287). Log 6, log 7. -/
def awaitReply (k : Digest → State → Outcome) (s : State) : Outcome :=
  match s.hashPort with
  | none => .next s
  | some m =>
    match s.collaborator.answer m with
    | none => .next s
    | some (r, c) => k r (s.reply r c)

/-! ### Returning to idle -/

/-- The block in its idle state (10_state.md R35, R38; 70_reset_and_hazards.md R280); the outside is as it was (log 10). -/
def State.cleared (s : State) : State :=
  { State.reset with
    cmdPort := s.cmdPort, rspReady := s.rspReady, resetIn := s.resetIn,
    hexUpper := s.hexUpper, collaborator := s.collaborator, trace := s.trace }

/-- The response frame: `0x00 ‖ RES`, or the status byte alone (10_state.md R35, 30_encoding.md R87). -/
def State.response (s : State) : Frame := if s.err = statusOk then statusOk :: s.res else [s.err]

/-- The respond transition (10_state.md R35), and the block's return from an exception (60_exceptions.md R247). The
block stays in `RESPOND` until the RSP port takes the frame (70_reset_and_hazards.md R286 item 3). -/
def State.respond (s : State) : State :=
  if s.rspReady then { s.cleared with trace := s.trace ++ [.rsp s.response] } else s

/-- The reset transition (10_state.md R36, 70_reset_and_hazards.md R283): idle state, no response; the outstanding
request is cancelled. The reset input is released (log 4). -/
def State.resetNow (s : State) : State :=
  { s.cleared with resetIn := false, trace := s.trace ++ [.reset] }

/-! ### Accepting a frame -/

/-- What `parse` found goes into the sequencer (10_state.md R30): a frame error is raised, a command is latched. -/
def State.load (f : Frame) (s : State) : State :=
  match parse f with
  | .error e => s.raise (frameStatus e)
  | .ok i => s.latch i

/-- The accept transition (10_state.md R30): the oldest frame at the CMD port is taken whole; with none the block
stays idle. -/
def State.accept (s : State) : State :=
  match s.cmdPort with
  | [] => s
  | f :: rest => State.load f { s with cmdPort := rest, trace := s.trace ++ [.cmd f] }

end Sys2Proof.Machine
end

