-- ==== Sys2Proof/Machine/Base32.lean ====
section
/-! DEFINITION. The base32 secret decoder (41_base32_decoder.md): B32DEC. -/

namespace Sys2Proof.Machine

/-- `upper(c)` (30_encoding.md R99): the 26 ASCII lower-case letters only. -/
def upper (c : Byte) : Byte := if 0x61 ≤ c.toNat ∧ c.toNat ≤ 0x7A then c - 0x20 else c

/-- `b32val(c)`, after case folding (30_encoding.md R98). -/
def b32val (c : Byte) : Option Nat :=
  let n := c.toNat
  if 0x41 ≤ n ∧ n ≤ 0x5A then some (n - 0x41)
  else if 0x32 ≤ n ∧ n ≤ 0x37 then some (n - 0x32 + 26)
  else none

/-- The number the symbols of `u` form after the number `v`, the first character most significant (41_base32_decoder.md
R140, R142); none where a character is no symbol. -/
def b32Number (v : Nat) : List Byte → Option Nat
  | [] => some v
  | c :: u =>
    match b32val c with
    | none => none
    | some x => b32Number (v * 2 ^ Config.b32Bits + x) u

/-- `decode(s)` (41_base32_decoder.md R140). -/
def decode (secret : List Byte) : Except CommandError Digest :=
  let u := secret.map upper
  if u.length ≠ Config.secretLen then .error .invalidSecretFormat
  else
    match b32Number 0 u with
    | none => .error .invalidSecretFormat
    | some v => .ok (beBytes 20 v)

/-- B32DEC (41_base32_decoder.md R141). -/
def execB32dec (a : List Byte) (s : State) : Outcome :=
  let s := s.latch (.b32dec a)
  match decode s.opa with
  | .error e => .next (s.raise (commandStatus e))
  | .ok k => .next ({ s with keyb := k }.complete k.val)

end Sys2Proof.Machine
end

