-- ==== Sys2Proof/Machine/Hex.lean ====
section
/-! DEFINITION. The hex/byte codec (40_hex_codec.md): HEX2B and B2HEX. -/

namespace Sys2Proof.Machine

/-- `hexval(c)` (30_encoding.md R95). -/
def hexval (u : Config.HexUpper) (c : Byte) : Option Nat :=
  let n := c.toNat
  if 0x30 ≤ n ∧ n ≤ 0x39 then some (n - 0x30)
  else if 0x61 ≤ n ∧ n ≤ 0x66 then some (n - 0x61 + 10)
  else if 0x41 ≤ n ∧ n ≤ 0x46 then
    match u with
    | .accept => some (n - 0x41 + 10)
    | .reject => none
  else none

/-- `hexdigit(n)` for `n` in 0..15, lower case (30_encoding.md R96). -/
def hexdigit (n : Nat) : Byte := BitVec.ofNat 8 (if n ≤ 9 then 0x30 + n else 0x61 + n - 10)

/-- `hexToBytes(h)` (40_hex_codec.md R120): two digits a byte, most significant nibble first; odd length or a
character that is no hex digit is `MalformedHex`. -/
def hexToBytes (u : Config.HexUpper) : List Byte → Except CommandError (List Byte)
  | [] => .ok []
  | [_] => .error .malformedHex
  | c :: d :: h =>
    match hexval u c, hexval u d, hexToBytes u h with
    | some x, some y, .ok b => .ok (BitVec.ofNat 8 (16 * x + y) :: b)
    | _, _, _ => .error .malformedHex

/-- `bytesToHex(b)` (40_hex_codec.md R125). -/
def bytesToHex : List Byte → List Byte
  | [] => []
  | x :: b => hexdigit (x >>> 4).toNat :: hexdigit (x &&& 0x0F).toNat :: bytesToHex b

/-- HEX2B (40_hex_codec.md R121). -/
def execHex2b (a : List Byte) (s : State) : Outcome :=
  let s := s.latch (.hex2b a)
  match hexToBytes s.hexUpper s.opa with
  | .error e => .next (s.raise (commandStatus e))
  | .ok b => .next (s.complete (blob b))

/-- B2HEX (40_hex_codec.md R126). -/
def execB2hex (a : List Byte) (s : State) : Outcome :=
  let s := s.latch (.b2hex a)
  .next (s.complete (blob (bytesToHex s.opa)))

end Sys2Proof.Machine
end

