-- ==== Sys2Proof/Machine/Hmac.lean ====
section
/-! DEFINITION. The HMAC-SHA1 engine (42_hmac_engine.md): HMAC, and the key-hash and inner-hash replies. -/

namespace Sys2Proof.Machine

/-- `ipad(K)`: the 64 bytes `K[i] XOR 0x36` (10_state.md section 7, 42_hmac_engine.md R160 step 3). -/
def ipad (k : Bytes 64) : List Byte := k.val.map (· ^^^ Config.ipadByte)

/-- `opad(K)`: the 64 bytes `K[i] XOR 0x5c`. -/
def opad (k : Bytes 64) : List Byte := k.val.map (· ^^^ Config.opadByte)

/-- `KBLK <- k ‖ zeros(64 - len(k))` (42_hmac_engine.md R160 step 2), then the inner request over `message`, `PHASE <-
WAIT_INNER` (10_state.md R31, R32). -/
def State.requestInner (k message : List Byte) (s : State) : State :=
  let s := { s with kblk := padRight 64 k }
  s.request .waitInner (ipad s.kblk ++ message)

/-- HMAC (42_hmac_engine.md R161, 10_state.md R31): a key longer than 64 bytes is sent to be hashed, another is the
block key at once. -/
def execHmac (key message : List Byte) (s : State) : Outcome :=
  let s := s.latch (.hmac key message)
  if Config.blockSize < s.opa.length then .next (s.request .waitKeyhash s.opa)
  else .next (s.requestInner s.opa s.opb)

/-- The key-hash reply (10_state.md R32). -/
def onKeyHash (r : Digest) (s : State) : Outcome := .next (s.requestInner r.val s.opb)

/-- The inner-hash reply (10_state.md R33). -/
def onInnerHash (r : Digest) (s : State) : Outcome :=
  let s := { s with ihash := r }
  .next (s.request .waitOuter (opad s.kblk ++ s.ihash.val))

end Sys2Proof.Machine
end

