-- ==== Sys2Proof/Machine/Totp.lean ====
section
/-! DEFINITION. The TOTP deriver (43_totp_deriver.md): CTR, TRUNC, DERIVE, SECREM, and the outer-hash reply. -/

namespace Sys2Proof.Machine

/-- `counter(t)` (43_totp_deriver.md R180). -/
def counter (t : Nat) : Nat := t / Config.msPerS / Config.timeStep

/-- `secondsRemaining(t)` (43_totp_deriver.md R196). -/
def secondsRemaining (t : Nat) : Nat := Config.timeStep - t / Config.msPerS % Config.timeStep

/-- The byte `d[offset + i]`, `i` in 0..3: the one data-dependent index, never outside the digest (20_memory.md R64). -/
def windowByte (d : Digest) (offset : BitVec 4) (i : Fin 4) : Byte :=
  d.val[offset.toNat + i.val]'(by have := offset.isLt; have := d.property; omega)

/-- `offset` of `truncate(d)` (43_totp_deriver.md R184): the low nibble of the last byte. -/
def offsetOf (d : Digest) : BitVec 4 :=
  ((d.val[19]'(by have := d.property; omega)) &&& Config.offsetMask).setWidth 4

/-- `binCode` of `truncate(d)` (43_totp_deriver.md R184). -/
def binCodeOf (d : Digest) (offset : BitVec 4) : Word32 :=
  ((windowByte d offset 0 &&& Config.signMask).setWidth 32 <<< 24)
    ||| ((windowByte d offset 1).setWidth 32 <<< 16)
    ||| ((windowByte d offset 2).setWidth 32 <<< 8)
    ||| (windowByte d offset 3).setWidth 32

/-- `code` of `truncate(d)` (43_totp_deriver.md R184). -/
def codeOf (binCode : Word32) : Word32 := BitVec.ofNat 32 (binCode.toNat % Config.codeMod)

/-- `truncate(d)`: the triple `(offset, binCode, code)` (43_totp_deriver.md R184). -/
def truncate (d : Digest) : BitVec 4 × Word32 × Word32 :=
  let offset := offsetOf d
  let binCode := binCodeOf d offset
  (offset, binCode, codeOf binCode)

/-- `(OFF, BIN, CODE) <- truncate(DIG); RES <- be(CODE, 4)` and completion (10_state.md R31, R34). -/
def State.completeCode (s : State) : State :=
  let s := { s with off := (truncate s.dig).1, bin := (truncate s.dig).2.1, code := (truncate s.dig).2.2 }
  s.complete (be s.code.toNat 4)

/-- CTR (43_totp_deriver.md R181). -/
def execCtr (t : Word64) (s : State) : Outcome :=
  let s := s.latch (.ctr t)
  let s := { s with cnt := BitVec.ofNat 64 (counter s.now.toNat) }
  .next (s.complete (be s.cnt.toNat 8))

/-- TRUNC (43_totp_deriver.md R185). -/
def execTrunc (d : Digest) (s : State) : Outcome :=
  let s := s.latch (.trunc d)
  .next { s with dig := d }.completeCode

/-- SECREM (43_totp_deriver.md R197). -/
def execSecrem (t : Word64) (s : State) : Outcome :=
  let s := s.latch (.secrem t)
  .next (s.complete (be (secondsRemaining s.now.toNat) 1))

/-- DERIVE up to its first request (43_totp_deriver.md R191, 10_state.md R31). The secret is validated before anything
else; the counter goes through its 16 hex digits (R182). The `MalformedHex` branch is the source's check of the codec
and is never taken (R192, 93_implementation_defined.md U12). -/
def execDerive (secret : List Byte) (t : Word64) (s : State) : Outcome :=
  let s := s.latch (.derive secret t)
  match decode s.opa with
  | .error e => .next (s.raise (commandStatus e))
  | .ok k =>
    let s := { s with keyb := k, cnt := BitVec.ofNat 64 (counter s.now.toNat) }
    let s := { s with chex := padRight 16 (bytesToHex (be s.cnt.toNat Config.ctrBytes)) }
    match hexToBytes s.hexUpper s.chex.val with
    | .error e => .next (s.raise (commandStatus e))
    | .ok b =>
      let s := { s with cbytes := padRight 8 b }
      .next (s.requestInner s.keyb.val s.cbytes.val)

/-- The outer-hash reply (10_state.md R34). -/
def onOuterHash (r : Digest) (s : State) : Outcome :=
  let s := { s with dig := r }
  match s.op.toNat with
  | 4 => .next (s.complete s.dig.val)
  | 7 => .next s.completeCode
  | _ => .fault .outerWithoutCommand

end Sys2Proof.Machine
end

