-- ==== Sys2Proof/Machine/Dispatch.lean ====
section
/-! DEFINITION. One arm per command: its execute transition (10_state.md R31). -/

namespace Sys2Proof.Machine

def exec (i : Instr) (s : State) : Host.Outcome State Fault Refusal :=
  match i with
  | .hex2b a => Sys2Proof.Machine.execHex2b a s
  | .b2hex a => Sys2Proof.Machine.execB2hex a s
  | .b32dec a => Sys2Proof.Machine.execB32dec a s
  | .hmac key message => Sys2Proof.Machine.execHmac key message s
  | .ctr t => Sys2Proof.Machine.execCtr t s
  | .trunc d => Sys2Proof.Machine.execTrunc d s
  | .derive secret t => Sys2Proof.Machine.execDerive secret t s
  | .secrem t => Sys2Proof.Machine.execSecrem t s

end Sys2Proof.Machine
end

