-- ==== Sys2Proof/Machine/Step.lean ====
section
/-! DEFINITION. One transition of the sequencer (10_state.md section 7), and how the host places a command. -/

namespace Sys2Proof.Machine

/-- One transition of the block: reset overrides everything (10_state.md R36, 60_exceptions.md R246), else the one
transition `PHASE` enables (R30 to R35). Where none is enabled the state does not change (log 6). -/
def step (s : State) : Host.Outcome State Fault Refusal :=
  if s.resetIn then .next s.resetNow
  else
    match s.phase with
    | .idle => .next s.accept
    | .exec =>
      match s.latched with
      | some i => exec i s
      | none => .refused .unassignedOp
    | .waitKeyhash => awaitReply onKeyHash s
    | .waitInner => awaitReply onInnerHash s
    | .waitOuter => awaitReply onOuterHash s
    | .respond => .next s.respond

/-- `s` with the command of a table row as the one the next transition executes: its frame is loaded as the accept
transition loads one (10_state.md R30), and no reset is asserted. The block fetches no instructions (20_memory.md
R62): `OP`, `OPA`, `OPB` and `NOW` are where a command in progress stands. Log 11. -/
def State.withFetchWord (s : State) (nbits w : Nat) : State :=
  State.load (tableFrame nbits w) { s with resetIn := false }

end Sys2Proof.Machine
end

