-- ==== Sys2Proof/Machine/BigStep.lean ====
section
/-! DEFINITION. The big-step view (00_scope.md R18): a total function from a frame to its HASH requests and its response,
with the collaborator as a function `sha1` and `HEX_UPPER` as `u`. The machine does not use it; that the two views agree
is a statement. -/

namespace Sys2Proof.Machine

/-- The block key `K0` (42_hmac_engine.md R160 steps 1 and 2). -/
def blockKey (sha1 : Frame → Digest) (key : List Byte) : Bytes 64 :=
  if Config.blockSize < key.length then padRight 64 (sha1 key).val else padRight 64 key

/-- `innerHash` of `hmac` (42_hmac_engine.md R160 step 4). -/
def innerHash (sha1 : Frame → Digest) (key message : List Byte) : Digest :=
  sha1 (ipad (blockKey sha1 key) ++ message)

/-- `hmac(key, message)` (42_hmac_engine.md R160). -/
def hmac (sha1 : Frame → Digest) (key message : List Byte) : Digest :=
  sha1 (opad (blockKey sha1 key) ++ (innerHash sha1 key message).val)

/-- The HASH requests of `hmac`, in order (20_memory.md R57). -/
def hmacRequests (sha1 : Frame → Digest) (key message : List Byte) : List Frame :=
  (if Config.blockSize < key.length then [key] else [])
    ++ [ipad (blockKey sha1 key) ++ message, opad (blockKey sha1 key) ++ (innerHash sha1 key message).val]

/-- The HMAC message of `deriveCode`: the counter through its 16 hex digits (43_totp_deriver.md R190 steps 2 and 3, R182). -/
def counterBytes (u : Config.HexUpper) (t : Word64) : Except CommandError (List Byte) :=
  hexToBytes u (bytesToHex (be (counter t.toNat) Config.ctrBytes))

/-- `deriveCode(secret, nowMillis)` (43_totp_deriver.md R190). -/
def deriveCode (sha1 : Frame → Digest) (u : Config.HexUpper) (secret : List Byte) (t : Word64) :
    Except CommandError Word32 :=
  match decode secret with
  | .error e => .error e
  | .ok k =>
    match counterBytes u t with
    | .error e => .error e
    | .ok b => .ok (truncate (hmac sha1 k.val b)).2.2

/-- The HASH requests of `deriveCode`: none for an invalid secret (43_totp_deriver.md R194). -/
def deriveRequests (sha1 : Frame → Digest) (u : Config.HexUpper) (secret : List Byte) (t : Word64) : List Frame :=
  match decode secret with
  | .error _ => []
  | .ok k =>
    match counterBytes u t with
    | .error _ => []
    | .ok b => hmacRequests sha1 k.val b

/-- A success response: status `0x00` and the payload (30_encoding.md R87). -/
def okFrame (payload : List Byte) : Frame := statusOk :: payload

/-- An error response: the status byte alone (60_exceptions.md R245). -/
def errorFrame (status : Byte) : Frame := [status]

/-- The response to a command (30_encoding.md R85, R87). -/
def responseTo (sha1 : Frame → Digest) (u : Config.HexUpper) : Instr → Frame
  | .hex2b a =>
    match hexToBytes u a with
    | .error e => errorFrame (commandStatus e)
    | .ok b => okFrame (blob b)
  | .b2hex a => okFrame (blob (bytesToHex a))
  | .b32dec a =>
    match decode a with
    | .error e => errorFrame (commandStatus e)
    | .ok k => okFrame k.val
  | .hmac key message => okFrame (hmac sha1 key message).val
  | .ctr t => okFrame (be (counter t.toNat) 8)
  | .trunc d => okFrame (be (truncate d).2.2.toNat 4)
  | .derive secret t =>
    match deriveCode sha1 u secret t with
    | .error e => errorFrame (commandStatus e)
    | .ok code => okFrame (be code.toNat 4)
  | .secrem t => okFrame (be (secondsRemaining t.toNat) 1)

/-- The HASH requests of a command, in order (20_memory.md R57). -/
def requestsOf (sha1 : Frame → Digest) (u : Config.HexUpper) : Instr → List Frame
  | .hex2b _ => []
  | .b2hex _ => []
  | .b32dec _ => []
  | .hmac key message => hmacRequests sha1 key message
  | .ctr _ => []
  | .trunc _ => []
  | .derive secret t => deriveRequests sha1 u secret t
  | .secrem _ => []

/-- The big-step view (00_scope.md R18): the HASH requests of a frame and its response. -/
def respondTo (sha1 : Frame → Digest) (u : Config.HexUpper) (f : Frame) : List Frame × Frame :=
  match parse f with
  | .error e => ([], errorFrame (frameStatus e))
  | .ok i => (requestsOf sha1 u i, responseTo sha1 u i)

end Sys2Proof.Machine
end

