-- ==== Sys2Proof/Machine/Env.lean ====
section
/-! DEFINITION. What the outside does to the block: the host's and the collaborator's moves (00_scope.md R14). An input
may come between any two transitions. Log 4. -/

namespace Sys2Proof.Machine

/-- The moves of the outside. -/
inductive Input
  /-- The host presents a frame at the CMD port; it waits there until it is accepted (10_state.md R30). -/
  | present (f : Frame)
  /-- The host becomes ready, or no longer ready, to take a response (70_reset_and_hazards.md R286 item 3). -/
  | ready (b : Bool)
  /-- The host, or power-on, asserts reset (70_reset_and_hazards.md R282). -/
  | assertReset
  /-- The collaborator on the HASH port becomes another one, as when one falls silent or answers at last. -/
  | attach (c : Collaborator)
  deriving DecidableEq, Repr

/-- The state after a move of the outside: only the outside's halves of the ports change (10_state.md R20). -/
def State.input (i : Input) (s : State) : State :=
  match i with
  | .present f => { s with cmdPort := s.cmdPort ++ [f] }
  | .ready b => { s with rspReady := b }
  | .assertReset => { s with resetIn := true }
  | .attach c => { s with collaborator := c }

end Sys2Proof.Machine
end

