-- ==== Sys2Proof/Safety.lean ====
section
/-! DEFINITION. The terms claims are stated in: the idle state, the sequencer's invariant, the protocol at the ports,
runs and reachable states, the collaborator as a function. -/

namespace Sys2Proof.Machine

/-- The idle state (00_scope.md R17, 70_reset_and_hazards.md R280): clearing changes nothing, so `PHASE = IDLE`, every
register is zero, every buffer empty, and no request outstanding. -/
def State.Idle (s : State) : Prop := s.cleared = s

/-- A HASH request is outstanding exactly in these phases (10_state.md R24, R29). -/
def Phase.waiting : Phase → Bool
  | .waitKeyhash => true
  | .waitInner => true
  | .waitOuter => true
  | .idle => false
  | .exec => false
  | .respond => false

/-- The message the inner request of the command in progress is over: `OPB` for HMAC, `CBYTES` for DERIVE (R31, R32). -/
def State.message (s : State) : List Byte := if s.op = 0x07 then s.cbytes.val else s.opb

/-- The status codes the block emits (30_encoding.md R90). -/
def emittedStatuses : List Byte :=
  [statusOk, commandStatus .invalidSecretFormat, commandStatus .malformedHex,
    frameStatus .illegalCommand, frameStatus .malformedFrame]

/-- The sequencer's invariant: what the rules of 10_state.md say of the state in each phase. -/
structure State.Inv (s : State) : Prop where
  /-- In IDLE everything is zero or empty (R38). -/
  idle_clear : s.phase = .idle → s.Idle
  /-- A request is outstanding exactly in a `WAIT_` phase (R29). -/
  request_iff : s.hashPort.isSome = s.phase.waiting
  /-- `OP` is 0 or an assigned opcode (R28). -/
  op_assigned : s.op.toNat ≤ 8
  /-- In EXEC a well-formed command is latched (R30). -/
  latched_wf : s.phase = .exec → ∃ i, s.latched = some i ∧ i.wf = true
  /-- Only HMAC and DERIVE wait (R31). -/
  wait_op : s.phase.waiting = true → s.op = 0x04 ∨ s.op = 0x07
  /-- Only HMAC with a long key reaches WAIT_KEYHASH, and it asks for the hash of the key (R31, R32). -/
  key_request : s.phase = .waitKeyhash → s.op = 0x04 ∧ 64 < s.opa.length ∧ s.hashPort = some s.opa
  /-- What WAIT_INNER asks for (R31, R32). -/
  inner_request : s.phase = .waitInner → s.hashPort = some (ipad s.kblk ++ s.message)
  /-- What WAIT_OUTER asks for (R33). -/
  outer_request : s.phase = .waitOuter → s.hashPort = some (opad s.kblk ++ s.ihash.val)
  /-- An error code stands in `ERR` only while its response is due (R27). -/
  err_respond : s.err ≠ statusOk → s.phase = .respond
  /-- `ERR` holds only codes the block emits (30_encoding.md R90). -/
  err_emitted : s.err ∈ emittedStatuses
  /-- A success has a result (60_exceptions.md R245). -/
  res_nonempty : s.phase = .respond → s.err = statusOk → s.res ≠ []
  /-- Bit 31 of `BIN` is 0 (R21). -/
  bin_top : s.bin.toNat ≤ 0x7FFFFFFF
  /-- `CODE` is in 0..999999 (R21). -/
  code_range : s.code.toNat ≤ 999999
  /-- The buffers' bounds (20_memory.md R51). -/
  opa_bound : s.opa.length ≤ 0xFFFFFFFF
  opb_bound : s.opb.length ≤ 0xFFFFFFFF
  res_bound : s.res.length ≤ 0x100000002

/-! ### The protocol at the ports (20_memory.md R57, R60) -/

/-- What an observer of the ports knows of the block. -/
inductive PortView
  /-- No command in progress. -/
  | idle
  /-- A command in progress, no request outstanding. -/
  | busy
  /-- A command in progress, a request outstanding. -/
  | asked
  deriving DecidableEq, Repr

/-- The events the protocol allows: a frame only when idle; one response a command; at most one request outstanding,
between the acceptance of its command and the response; a reply only to an outstanding request; reset at any time. -/
def PortView.next : PortView → Event → Option PortView
  | .idle, .cmd _ => some .busy
  | .busy, .hashReq _ => some .asked
  | .asked, .hashReply _ => some .busy
  | .busy, .rsp _ => some .idle
  | .idle, .reset => some .idle
  | .busy, .reset => some .idle
  | .asked, .reset => some .idle
  | .idle, .hashReq _ => none
  | .idle, .hashReply _ => none
  | .idle, .rsp _ => none
  | .busy, .cmd _ => none
  | .busy, .hashReply _ => none
  | .asked, .cmd _ => none
  | .asked, .hashReq _ => none
  | .asked, .rsp _ => none

/-- What an observer knows after a trace of events; none where the protocol was broken. -/
def PortView.after (v : PortView) : List Event → Option PortView
  | [] => some v
  | e :: es =>
    match v.next e with
    | none => none
    | some v => v.after es

/-- What an observer should know in a phase. -/
def Phase.view : Phase → PortView
  | .idle => .idle
  | .exec => .busy
  | .waitKeyhash => .asked
  | .waitInner => .asked
  | .waitOuter => .asked
  | .respond => .busy

/-- The trace obeys the protocol and ends where the block is. -/
def State.TraceOk (s : State) : Prop := PortView.idle.after s.trace = some s.phase.view

/-! ### Runs -/

/-- `n` transitions from `s` end in `t` with no stop. -/
def Runs (n : Nat) (s t : State) : Prop := core.run n s = .next t

/-- The values of `PHASE` from `s` on, through `n` transitions (10_state.md R25). -/
def phaseTrail : Nat → State → List Phase
  | 0, s => [s.phase]
  | n + 1, s =>
    s.phase ::
      match step s with
      | .next t => phaseTrail n t
      | .fault _ => []
      | .refused _ => []

/-- The states the block can be in: from reset, by transitions and by moves of the outside in any order. -/
inductive Reachable : State → Prop
  | reset : Reachable State.reset
  | step {s t : State} : Reachable s → step s = .next t → Reachable t
  | input {s : State} (i : Input) : Reachable s → Reachable (s.input i)

/-- The collaborator attached answers every request `m` with `sha1 m` (20_memory.md R59 (a), 44_sha1_collaborator.md R210). -/
def Collaborator.Computes (c : Collaborator) (sha1 : Frame → Digest) : Prop :=
  ∀ m, c.answer m = some (sha1 m, c)

/-- The events of requests answered by `sha1`, each followed by its reply (20_memory.md R57). -/
def hashEvents (sha1 : Frame → Digest) (ms : List Frame) : List Event :=
  ms.flatMap fun m => [.hashReq m, .hashReply (sha1 m)]

/-- The host presents `f` to an idle block and takes responses; no reset (70_reset_and_hazards.md R289). -/
structure State.Presented (s : State) (f : Frame) (rest : List Frame) : Prop where
  idle : s.Idle
  no_reset : s.resetIn = false
  ready : s.rspReady = true
  port : s.cmdPort = f :: rest

/-- `s` after the block has answered its oldest frame `f` with response `g`, sending the requests `ms`: the idle state,
and the events of the command at the end of the trace. -/
def State.answered (s : State) (sha1 : Frame → Digest) (f : Frame) (rest : List Frame) (ms : List Frame) (g : Frame) :
    State :=
  { s with cmdPort := rest, trace := s.trace ++ [.cmd f] ++ hashEvents sha1 ms ++ [.rsp g] }

end Sys2Proof.Machine
end

