-- ==== Sys2Proof/Certificates/Slice0/Obligations.lean ====
section
/-! DEFINITION. The statements about the deno2fa CORE, for the provers. -/

open Sys2Proof Sys2Proof.Machine

/-! ### Encoding (30_encoding.md) -/

/-- R92: `parse(encode(c)) = c` for every command whose fields are in range; conversely a frame that parses is the frame
of its command, whose fields are in range: a command has exactly one frame. -/
def Obligations.ParseAndEncodeAreInverse : Prop :=
  (∀ i : Instr, i.wf = true → parse (encode i) = .ok i) ∧
  (∀ (f : Frame) (i : Instr), parse f = .ok i → encode i = f ∧ i.wf = true)

/-- R91, R88, R128: a frame is a command exactly when its opcode is assigned, its length is the one its opcode and
length fields determine, and a B2HEX operand is at most `0x7FFFFFFF` bytes. -/
def Obligations.FrameParsesWhenItsLengthFits : Prop :=
  ∀ f : Frame, (∃ i, parse f = .ok i) ↔
    (f ≠ [] ∧ 1 ≤ (f.getD 0 0).toNat ∧ (f.getD 0 0).toNat ≤ 8 ∧ f.length = frameLength f ∧
      (f.getD 0 0 = 0x02 → lengthField f 1 ≤ 0x7FFFFFFF))

/-- R246 classes 1 to 3: the empty frame is malformed; then a reserved opcode is `IllegalCommand` whatever follows;
then any other frame that is no command is malformed. -/
def Obligations.FrameErrorPriority : Prop :=
  parse [] = .error .malformedFrame ∧
  (∀ (op : Byte) (r : List Byte), op.toNat = 0 ∨ 9 ≤ op.toNat → parse (op :: r) = .error .illegalCommand) ∧
  (∀ (op : Byte) (r : List Byte) (e : FrameError), 1 ≤ op.toNat → op.toNat ≤ 8 → parse (op :: r) = .error e →
    e = .malformedFrame)

/-- R84, R85: frames written out from the spec's encodings are the commands they stand for. -/
def Obligations.SpecFramesDecode : Prop :=
  parse [0x01, 0, 0, 0, 4, 0x66, 0x66, 0x30, 0x30] = .ok (.hex2b [0x66, 0x66, 0x30, 0x30]) ∧
  parse [0x02, 0, 0, 0, 3, 0x00, 0xff, 0xab] = .ok (.b2hex [0x00, 0xff, 0xab]) ∧
  parse [0x03, 0, 0, 0, 2, 0x41, 0x37] = .ok (.b32dec [0x41, 0x37]) ∧
  parse [0x04, 0, 0, 0, 1, 0x6b, 0, 0, 0, 2, 0x6d, 0x6e] = .ok (.hmac [0x6b] [0x6d, 0x6e]) ∧
  parse [0x05, 0, 0, 0, 0, 0, 0, 0xe6, 0x78] = .ok (.ctr 59000) ∧
  parse [0x06, 0, 1, 2, 3, 4, 5, 6, 7, 8, 9, 10, 11, 12, 13, 14, 15, 16, 17, 18, 19] =
    .ok (.trunc ⟨[0, 1, 2, 3, 4, 5, 6, 7, 8, 9, 10, 11, 12, 13, 14, 15, 16, 17, 18, 19], rfl⟩) ∧
  parse [0x07, 0, 0, 0, 1, 0x41, 0, 0, 0, 0, 0, 0, 0x75, 0x30] = .ok (.derive [0x41] 30000) ∧
  parse [0x08, 0, 0, 0, 0, 0, 0, 0xe6, 0x78] = .ok (.secrem 59000)

/-- R95: the value of a hex digit, and no other character has one. -/
def Obligations.HexDigitValues : Prop :=
  ∀ (u : Config.HexUpper) (c : Byte),
    (0x30 ≤ c.toNat ∧ c.toNat ≤ 0x39 → hexval u c = some (c.toNat - 0x30)) ∧
    (0x61 ≤ c.toNat ∧ c.toNat ≤ 0x66 → hexval u c = some (c.toNat - 0x61 + 10)) ∧
    (0x41 ≤ c.toNat ∧ c.toNat ≤ 0x46 →
      hexval u c = match u with | .accept => some (c.toNat - 0x41 + 10) | .reject => none) ∧
    (c.toNat < 0x30 ∨ 0x39 < c.toNat ∧ c.toNat < 0x41 ∨ 0x46 < c.toNat ∧ c.toNat < 0x61 ∨ 0x66 < c.toNat →
      hexval u c = none)

/-- R97, R98: the value of a base32 symbol is its index in the alphabet, and no other character has one. -/
def Obligations.Base32SymbolIsItsAlphabetIndex : Prop :=
  ∀ c : Byte, b32val c = (ascii "ABCDEFGHIJKLMNOPQRSTUVWXYZ234567").idxOf? c

/-! ### Accepting and executing (10_state.md) -/

/-- R30: in `IDLE` the host's oldest frame is taken whole: a command's opcode and operands are latched and `PHASE` is
`EXEC`; for a frame error (R241, R242) only `ERR` is written and the response is due. With `PHASE != IDLE` no frame is
accepted, and the frames at the port stay there. -/
def Obligations.AcceptFollowsTheParse : Prop :=
  (∀ (s : State) (f : Frame) (rest : List Frame) (i : Instr),
    s.phase = .idle → s.resetIn = false → s.cmdPort = f :: rest → parse f = .ok i →
    step s = .next { s with
      cmdPort := rest, trace := s.trace ++ [.cmd f], phase := .exec,
      op := opcode i, opa := operandA i, opb := operandB i, now := operandT i }) ∧
  (∀ (s : State) (f : Frame) (rest : List Frame) (e : FrameError),
    s.phase = .idle → s.resetIn = false → s.cmdPort = f :: rest → parse f = .error e →
    step s = .next { s with
      cmdPort := rest, trace := s.trace ++ [.cmd f], phase := .respond,
      err := match e with | .illegalCommand => 0x80 | .malformedFrame => 0x81 }) ∧
  (∀ s t : State, s.phase ≠ .idle → step s = .next t →
    t.cmdPort = s.cmdPort ∧ ∃ es, t.trace = s.trace ++ es ∧ ∀ f, Event.cmd f ∉ es)

/-- The transition after the one that accepted a command's frame is `exec` of the command, at the state the accept left;
and in every EXEC state the transition is `exec` of the command the registers hold (R30, R31). The accept adds nothing
else around `exec`. -/
def Obligations.StepRunsTheDecodedCommand : Prop :=
  (∀ (s : State) (i : Instr), s.resetIn = false → s.phase = .exec → s.latched = some i → step s = exec i s) ∧
  (∀ (s : State) (f : Frame) (rest : List Frame) (i : Instr),
    s.phase = .idle → s.resetIn = false → s.cmdPort = f :: rest → parse f = .ok i →
    ∃ t, step s = .next t ∧ t.phase = .exec ∧ t.latched = some i ∧ step t = exec i t)

/-- R22: what the execute transition of each command writes, and what it leaves unchanged. -/
def Obligations.ExecuteWritesOnlyItsRegisters : Prop :=
  ∀ (i : Instr) (s t : State), exec i s = .next t →
    (t.cmdPort = s.cmdPort ∧ t.rspReady = s.rspReady ∧ t.resetIn = s.resetIn ∧ t.hexUpper = s.hexUpper ∧
      t.collaborator = s.collaborator) ∧
    (t.op = opcode i ∧ t.opa = operandA i ∧ t.opb = operandB i ∧ t.now = operandT i) ∧
    t.ihash = s.ihash ∧
    ((∀ a, i ≠ .b32dec a) → (∀ a n, i ≠ .derive a n) → t.keyb = s.keyb) ∧
    ((∀ n, i ≠ .ctr n) → (∀ a n, i ≠ .derive a n) → t.cnt = s.cnt) ∧
    ((∀ a n, i ≠ .derive a n) → t.chex = s.chex ∧ t.cbytes = s.cbytes) ∧
    ((∀ k m, i ≠ .hmac k m) → (∀ a n, i ≠ .derive a n) →
      t.kblk = s.kblk ∧ t.hashPort = s.hashPort ∧ t.trace = s.trace ∧ t.phase = .respond) ∧
    ((∀ d, i ≠ .trunc d) → t.dig = s.dig ∧ t.off = s.off ∧ t.bin = s.bin ∧ t.code = s.code) ∧
    (t.phase ≠ .respond → t.err = s.err ∧ t.res = s.res) ∧
    (t.err ≠ 0 → t.phase = .respond → t.res = s.res)

/-! ### HEX2B, B2HEX (40_hex_codec.md) -/

/-- R120, R121: the frame of HEX2B; on a string of even length whose characters are all hex digits it completes with the
blob of the bytes `b[i] = 16 * hexval(h[2i]) + hexval(h[2i+1])`; odd length or a character that is no hex digit raises
`MalformedHex`, with no partial result. -/
def Obligations.Hex2bConvertsPairsOfDigits : Prop :=
  (∀ a : List Byte, encode (.hex2b a) = 0x01 :: (be a.length 4 ++ a)) ∧
  (∀ (a : List Byte) (s : State), a.length % 2 = 0 → (∀ c ∈ a, ∃ x, hexval s.hexUpper c = some x) →
    ∃ b : List Byte, b.length = a.length / 2 ∧
      (∀ i < b.length, ∃ x y,
        hexval s.hexUpper (a.getD (2 * i) 0) = some x ∧ hexval s.hexUpper (a.getD (2 * i + 1) 0) = some y ∧
        (b.getD i 0).toNat = 16 * x + y) ∧
      exec (.hex2b a) s = .next { s with
        op := 0x01, opa := a, opb := [], now := 0, res := be b.length 4 ++ b, err := 0x00, phase := .respond }) ∧
  (∀ (a : List Byte) (s : State), a.length % 2 = 1 ∨ (∃ c ∈ a, hexval s.hexUpper c = none) →
    exec (.hex2b a) s = .next { s with
      op := 0x01, opa := a, opb := [], now := 0, err := 0x02, phase := .respond })

/-- R125, R126, R96: the frame of B2HEX; it completes with the blob of the string of two lower-case digits a byte, high nibble first. -/
def Obligations.B2hexRendersTwoDigitsPerByte : Prop :=
  ∀ (a : List Byte) (s : State), encode (.b2hex a) = 0x02 :: (be a.length 4 ++ a) ∧ ∃ h : List Byte, h.length = 2 * a.length ∧
    (∀ i < a.length,
      h.getD (2 * i) 0 = (ascii "0123456789abcdef").getD ((a.getD i 0).toNat / 16) 0 ∧
      h.getD (2 * i + 1) 0 = (ascii "0123456789abcdef").getD ((a.getD i 0).toNat % 16) 0) ∧
    exec (.b2hex a) s = .next { s with
      op := 0x02, opa := a, opb := [], now := 0, res := be h.length 4 ++ h, err := 0x00, phase := .respond }

/-- R127: the round-trip laws of the codec, under either value of `HEX_UPPER`. -/
def Obligations.HexCodecRoundTrips : Prop :=
  (∀ (u : Config.HexUpper) (b : List Byte), hexToBytes u (bytesToHex b) = .ok b) ∧
  (∀ (u : Config.HexUpper) (h b : List Byte), hexToBytes u h = .ok b →
    (∀ c ∈ h, ¬(0x41 ≤ c.toNat ∧ c.toNat ≤ 0x5A)) → bytesToHex b = h) ∧
  (∀ h b : List Byte, hexToBytes .accept h = .ok b →
    bytesToHex b = h.map fun c => if 0x41 ≤ c.toNat ∧ c.toNat ≤ 0x46 then c + 0x20 else c)

/-! ### B32DEC (41_base32_decoder.md) -/

/-- R140 to R142: the frame of B32DEC; on 32 characters that are symbols after case folding it completes with the 20
bytes whose bit `k` (0 the most significant) is bit `4 - (k mod 5)` of the value of character `k / 5`; any other length,
or a character that is no symbol after case folding, raises `InvalidSecretFormat`. -/
def Obligations.B32decConcatenatesFiveBitValues : Prop :=
  (∀ a : List Byte, encode (.b32dec a) = 0x03 :: (be a.length 4 ++ a)) ∧
  (∀ (a : List Byte) (s : State), a.length = 32 → (∀ c ∈ a, ∃ x, b32val (upper c) = some x) →
    ∃ key : Digest,
      (∀ k < 160, (key.val.getD (k / 8) 0).getLsbD (7 - k % 8) =
        ((b32val (upper (a.getD (k / 5) 0))).getD 0).testBit (4 - k % 5)) ∧
      exec (.b32dec a) s = .next { s with
        op := 0x03, opa := a, opb := [], now := 0, keyb := key, res := key.val, err := 0x00, phase := .respond }) ∧
  (∀ (a : List Byte) (s : State), a.length ≠ 32 ∨ (∃ c ∈ a, b32val (upper c) = none) →
    exec (.b32dec a) s = .next { s with
      op := 0x03, opa := a, opb := [], now := 0, err := 0x01, phase := .respond })

/-- R143: the group formulation: each group of 8 symbols gives 5 key bytes. -/
def Obligations.DecodeGivesFiveBytesPerGroup : Prop :=
  ∀ (a : List Byte) (key : Digest) (g : Nat), g < 4 → decode a = .ok key →
    let v := fun j => (b32val (upper (a.getD (8 * g + j) 0))).getD 0
    let byte := fun j => (key.val.getD (5 * g + j) 0).toNat
    byte 0 = (v 0 <<< 3 ||| v 1 >>> 2) ∧
    byte 1 = ((v 1 &&& 0x03) <<< 6 ||| v 2 <<< 1 ||| v 3 >>> 4) ∧
    byte 2 = ((v 3 &&& 0x0F) <<< 4 ||| v 4 >>> 1) ∧
    byte 3 = ((v 4 &&& 0x01) <<< 7 ||| v 5 <<< 2 ||| v 6 >>> 3) ∧
    byte 4 = ((v 6 &&& 0x07) <<< 5 ||| v 7)

/-- R99, R144: `upper` takes `0x20` off the 26 ASCII lower-case letters and changes no other code, so no code outside `A-Z`,
`a-z`, `2-7` becomes a symbol; and `decode(s)` depends on `s` only through `upper(s)`. -/
def Obligations.DecodeIgnoresCase : Prop :=
  (∀ c : Byte, 0x61 ≤ c.toNat ∧ c.toNat ≤ 0x7A → upper c = c - 0x20) ∧
  (∀ c : Byte, c.toNat < 0x61 ∨ 0x7A < c.toNat → upper c = c) ∧
  (∀ (c : Byte) (x : Nat), b32val (upper c) = some x →
    0x41 ≤ c.toNat ∧ c.toNat ≤ 0x5A ∨ 0x61 ≤ c.toNat ∧ c.toNat ≤ 0x7A ∨ 0x32 ≤ c.toNat ∧ c.toNat ≤ 0x37) ∧
  ∀ a a' : List Byte, a.map upper = a'.map upper → decode a = decode a'

/-- R147 (a): on the strings of 32 upper-case symbols `decode` is a bijection onto the values of 20 bytes. -/
def Obligations.DecodeIsABijection : Prop :=
  ∀ key : Digest, ∃! a : List Byte,
    a.length = 32 ∧ (∀ c ∈ a, c ∈ ascii "ABCDEFGHIJKLMNOPQRSTUVWXYZ234567") ∧ decode a = .ok key

/-! ### HMAC (42_hmac_engine.md) -/

/-- R31, R160 to R162: a key of at most 64 bytes is padded on the right with zeros and the inner request goes out. -/
def Obligations.HmacStartsWithTheInnerRequest : Prop :=
  ∀ (key message : List Byte) (s : State), key.length ≤ 64 →
    ∃ K : Bytes 64, K.val = key ++ List.replicate (64 - key.length) 0 ∧
      exec (.hmac key message) s = .next { s with
        op := 0x04, opa := key, opb := message, now := 0, kblk := K, phase := .waitInner,
        hashPort := some (K.val.map (· ^^^ 0x36) ++ message),
        trace := s.trace ++ [.hashReq (K.val.map (· ^^^ 0x36) ++ message)] }

/-- R31, R160: a key longer than 64 bytes is sent to be hashed first. -/
def Obligations.HmacHashesALongKeyFirst : Prop :=
  ∀ (key message : List Byte) (s : State), 64 < key.length →
    exec (.hmac key message) s = .next { s with
      op := 0x04, opa := key, opb := message, now := 0, phase := .waitKeyhash,
      hashPort := some key, trace := s.trace ++ [.hashReq key] }

/-- R32: the key-hash reply, padded with 44 zeros, is the block key, and the inner request goes out; only
HMAC reaches this phase. -/
def Obligations.KeyHashReplyStartsTheInnerHash : Prop :=
  (∀ s : State, Reachable s → s.phase = .waitKeyhash → s.op = 0x04) ∧
  ∀ (s : State) (m : Frame) (r : Digest) (c : Collaborator),
    s.resetIn = false → s.phase = .waitKeyhash → s.hashPort = some m → s.collaborator.answer m = some (r, c) →
    ∃ K : Bytes 64, K.val = r.val ++ List.replicate 44 0 ∧
      step s = .next { s with
        collaborator := c, kblk := K, phase := .waitInner,
        hashPort := some (K.val.map (· ^^^ 0x36) ++ s.opb),
        trace := s.trace ++ [.hashReply r] ++ [.hashReq (K.val.map (· ^^^ 0x36) ++ s.opb)] }

/-- R33: the inner-hash reply goes to `IHASH`, and the outer request of 84 bytes goes out. -/
def Obligations.InnerHashReplyStartsTheOuterHash : Prop :=
  ∀ (s : State) (m : Frame) (r : Digest) (c : Collaborator),
    s.resetIn = false → s.phase = .waitInner → s.hashPort = some m → s.collaborator.answer m = some (r, c) →
    step s = .next { s with
      collaborator := c, ihash := r, phase := .waitOuter,
      hashPort := some (s.kblk.val.map (· ^^^ 0x5c) ++ r.val),
      trace := s.trace ++ [.hashReply r] ++ [.hashReq (s.kblk.val.map (· ^^^ 0x5c) ++ r.val)] } ∧
    (s.kblk.val.map (· ^^^ 0x5c) ++ r.val : Frame).length = 84

/-- R34: the outer-hash reply goes to `DIG`; it is the result of HMAC, and DERIVE's result is the code of its
truncation. -/
def Obligations.OuterHashReplyCompletes : Prop :=
  ∀ (s : State) (m : Frame) (r : Digest) (c : Collaborator),
    s.resetIn = false → s.phase = .waitOuter → s.hashPort = some m → s.collaborator.answer m = some (r, c) →
    (s.op = 0x04 → step s = .next { s with
      collaborator := c, hashPort := none, trace := s.trace ++ [.hashReply r],
      dig := r, res := r.val, err := 0x00, phase := .respond }) ∧
    (s.op = 0x07 → step s = .next { s with
      collaborator := c, hashPort := none, trace := s.trace ++ [.hashReply r],
      dig := r, off := (truncate r).1, bin := (truncate r).2.1, code := (truncate r).2.2,
      res := be (truncate r).2.2.toNat 4, err := 0x00, phase := .respond })

/-- R160, R161: the frame of HMAC; and an HMAC frame from the idle state, with a collaborator that computes `sha1`: the requests, in order, the
response `00 ‖ digest`, and the idle state again, in 5 transitions or, with a key longer than 64 bytes, 6. -/
def Obligations.HmacCommandRunsToItsResponse : Prop :=
  ∀ (s : State) (f : Frame) (rest : List Frame) (sha1 : Frame → Digest) (key message : List Byte),
    s.Presented f rest → s.collaborator.Computes sha1 → parse f = .ok (.hmac key message) →
    f = 0x04 :: (be key.length 4 ++ key ++ (be message.length 4 ++ message)) ∧
    ∃ K : Bytes 64,
      (64 < key.length → K.val = (sha1 key).val ++ List.replicate 44 0) ∧
      (key.length ≤ 64 → K.val = key ++ List.replicate (64 - key.length) 0) ∧
      let inner := K.val.map (· ^^^ 0x36) ++ message
      let outer := K.val.map (· ^^^ 0x5c) ++ (sha1 inner).val
      Runs (if 64 < key.length then 6 else 5) s
        (s.answered sha1 f rest ((if 64 < key.length then [key] else []) ++ [inner, outer]) (0x00 :: (sha1 outer).val))

/-- R163 items 5 and 6: a key longer than 64 bytes and its hash give the same digest, and so do a key shorter than 64
bytes and that key with one more zero byte. -/
def Obligations.KeysWithTheSameBlockKeyAgree : Prop :=
  ∀ (sha1 : Frame → Digest) (key message : List Byte),
    (64 < key.length → hmac sha1 key message = hmac sha1 (sha1 key).val message) ∧
    (key.length < 64 → hmac sha1 key message = hmac sha1 (key ++ [0]) message)

/-! ### CTR, SECREM (43_totp_deriver.md) -/

/-- R180, R181: the frame of CTR; it completes with the counter in `CNT` and its 8 big-endian bytes as the
result; the two-step division is one by 30000. -/
def Obligations.CtrReturnsTheCounter : Prop :=
  ∀ (t : Word64) (s : State), encode (.ctr t) = 0x05 :: be t.toNat 8 ∧
    ∃ cnt : Word64, cnt.toNat = t.toNat / 1000 / 30 ∧ cnt.toNat = t.toNat / 30000 ∧
    exec (.ctr t) s = .next { s with
      op := 0x05, opa := [], opb := [], now := t, cnt := cnt, res := be (t.toNat / 1000 / 30) 8, err := 0x00,
      phase := .respond }

/-- R183 items 3 and 4: the counter is below `2^50` and never decreases. -/
def Obligations.CounterIsBoundedAndMonotone : Prop :=
  ∀ t t' : Word64, counter t.toNat < 2 ^ 50 ∧
    (t.toNat ≤ t'.toNat → counter t.toNat ≤ counter t'.toNat)

/-- R196, R197: the frame of SECREM; it completes with one byte, `30 - (floor(t / 1000) mod 30)`, which is in 1..30. -/
def Obligations.SecremReturnsOneToThirty : Prop :=
  ∀ (t : Word64) (s : State), encode (.secrem t) = 0x08 :: be t.toNat 8 ∧ ∃ b : Byte, b.toNat = 30 - t.toNat / 1000 % 30 ∧ 1 ≤ b.toNat ∧ b.toNat ≤ 30 ∧
    exec (.secrem t) s = .next { s with
      op := 0x08, opa := [], opb := [], now := t, res := [b], err := 0x00, phase := .respond }

/-- R198: with `s = floor(t / 1000)`, `s = 30 * counter(t) + (30 - secondsRemaining(t))`. -/
def Obligations.SecondsAreCounterAndRemainder : Prop :=
  ∀ t : Word64, t.toNat / 1000 = 30 * counter t.toNat + (30 - secondsRemaining t.toNat)

/-! ### TRUNC -/

/-- R184, R185: the frame of TRUNC; it completes with offset, `binCode` and code in their registers and the code as the result. -/
def Obligations.TruncTakesTheWindowModulo : Prop :=
  ∀ (d : Digest) (s : State),
    let o := (d.val.getD 19 0).toNat % 16
    let b := (d.val.getD o 0).toNat % 128 * 2 ^ 24 + (d.val.getD (o + 1) 0).toNat * 2 ^ 16
      + (d.val.getD (o + 2) 0).toNat * 2 ^ 8 + (d.val.getD (o + 3) 0).toNat
    encode (.trunc d) = 0x06 :: d.val ∧ b < 2 ^ 31 ∧
    exec (.trunc d) s = .next { s with
      op := 0x06, opa := d.val, opb := [], now := 0, dig := d, off := BitVec.ofNat 4 o, bin := BitVec.ofNat 32 b,
      code := BitVec.ofNat 32 (b % 1000000), res := be (b % 1000000) 4, err := 0x00, phase := .respond }

/-- R186 item 5: the high nibble of `d[19]` has no effect on the result. -/
def Obligations.TruncIgnoresTheLastHighNibble : Prop :=
  ∀ d d' : Digest, d.val.take 19 = d'.val.take 19 → (d.val.getD 19 0).toNat % 16 = (d'.val.getD 19 0).toNat % 16 →
    truncate d = truncate d'

/-! ### DERIVE -/

/-- R191, R192, R31: a valid secret: key, counter, its hex digits and bytes, and the block key are in their registers,
`CBYTES = be(CNT, 8)`, and the inner request of 72 bytes goes out. -/
def Obligations.DeriveStartsWithTheInnerRequest : Prop :=
  ∀ (secret : List Byte) (t : Word64) (s : State) (key : Digest), decode secret = .ok key →
    ∃ (cnt : Word64) (H : Bytes 16) (C : Bytes 8) (K : Bytes 64),
      cnt.toNat = t.toNat / 1000 / 30 ∧ H.val = bytesToHex (be cnt.toNat 8) ∧ C.val = be cnt.toNat 8 ∧
      K.val = key.val ++ List.replicate 44 0 ∧
      (K.val.map (· ^^^ 0x36) ++ C.val : Frame).length = 72 ∧
      exec (.derive secret t) s = .next { s with
        op := 0x07, opa := secret, opb := [], now := t, keyb := key, cnt := cnt, chex := H, cbytes := C, kblk := K,
        phase := .waitInner, hashPort := some (K.val.map (· ^^^ 0x36) ++ C.val),
        trace := s.trace ++ [.hashReq (K.val.map (· ^^^ 0x36) ++ C.val)] }

/-- R194, R191: an invalid secret raises `InvalidSecretFormat`: no HASH request, no counter, no code. -/
def Obligations.DeriveFailsFast : Prop :=
  ∀ (secret : List Byte) (t : Word64) (s : State),
    secret.length ≠ 32 ∨ (∃ c ∈ secret, b32val (upper c) = none) →
    exec (.derive secret t) s = .next { s with
      op := 0x07, opa := secret, opb := [], now := t, err := 0x01, phase := .respond }

/-- R190, R191: the frame of DERIVE; and a DERIVE frame from the idle state, with a collaborator that computes `sha1`: for
a valid secret the two requests, in order, the response `00 ‖ code` of the truncated digest, and the idle state again, in
5 transitions; for an invalid one no request and the response `01`, in 3. -/
def Obligations.DeriveCommandRunsToItsResponse : Prop :=
  ∀ (s : State) (f : Frame) (rest : List Frame) (sha1 : Frame → Digest) (secret : List Byte) (t : Word64),
    s.Presented f rest → s.collaborator.Computes sha1 → parse f = .ok (.derive secret t) →
    f = 0x07 :: (be secret.length 4 ++ secret ++ be t.toNat 8) ∧
    (∀ key, decode secret = .ok key →
      let K := key.val ++ List.replicate 44 0
      let inner := K.map (· ^^^ 0x36) ++ be (t.toNat / 1000 / 30) 8
      let outer := K.map (· ^^^ 0x5c) ++ (sha1 inner).val
      Runs 5 s (s.answered sha1 f rest [inner, outer] (0x00 :: be (truncate (sha1 outer)).2.2.toNat 4))) ∧
    (∀ e, decode secret = .error e → Runs 3 s (s.answered sha1 f rest [] [0x01]))

/-- R192, R182: the detour through 16 hex digits gives the 8 big-endian bytes of the counter, so `MalformedHex` cannot
arise inside DERIVE. -/
def Obligations.CounterBytesAreBigEndian : Prop :=
  ∀ (u : Config.HexUpper) (t : Word64), counterBytes u t = .ok (be (t.toNat / 1000 / 30) 8)

/-- R193: the response of DERIVE is that of TRUNC given the digest HMAC returns for key = the B32DEC result and
message = the HEX2B result of the B2HEX result of the CTR result. -/
def Obligations.DeriveIsTheChainOfCommands : Prop :=
  ∀ (sha1 : Frame → Digest) (u : Config.HexUpper) (secret : List Byte) (t : Word64) (k : Digest),
    decode secret = .ok k →
    ∃ (c h m : List Byte) (d : Digest),
      responseTo sha1 u (.b32dec secret) = 0x00 :: k.val ∧
      responseTo sha1 u (.ctr t) = 0x00 :: c ∧
      responseTo sha1 u (.b2hex c) = 0x00 :: (be h.length 4 ++ h) ∧
      responseTo sha1 u (.hex2b h) = 0x00 :: (be m.length 4 ++ m) ∧
      responseTo sha1 u (.hmac k.val m) = 0x00 :: d.val ∧
      responseTo sha1 u (.derive secret t) = responseTo sha1 u (.trunc d)

/-- R195 items 1 and 3: the code is constant over a window, and does not depend on the case of the secret. -/
def Obligations.CodeDependsOnWindowAndFoldedSecret : Prop :=
  ∀ (sha1 : Frame → Digest) (u : Config.HexUpper) (secret secret' : List Byte) (t t' : Word64),
    secret.map upper = secret'.map upper → counter t.toNat = counter t'.toNat →
    deriveCode sha1 u secret t = deriveCode sha1 u secret' t'

/-! ### Responding, errors, reset (10_state.md, 60_exceptions.md, 70_reset_and_hazards.md) -/

/-- R35, R38, R87: when the RSP port takes it, the response is emitted, `00 ‖ RES` or the status byte alone, and everything
inside is cleared. -/
def Obligations.RespondEmitsAndClears : Prop :=
  ∀ s : State, s.resetIn = false → s.phase = .respond → s.rspReady = true →
    ∃ t, step s = .next t ∧ t.Idle ∧
      t.trace = s.trace ++ [.rsp (if s.err = 0x00 then 0x00 :: s.res else [s.err])]

/-- R87, R85: the response to every frame is a status byte and a payload. A frame error is its status byte alone. A command
that succeeds answers `00` and the payload of its own form and length; one that fails, its status byte alone. -/
def Obligations.ResponsesHaveTheirForm : Prop :=
  ∀ (sha1 : Frame → Digest) (u : Config.HexUpper) (f : Frame),
    let g := (respondTo sha1 u f).2
    (∀ e, parse f = .error e → g = [match e with | .illegalCommand => 0x80 | .malformedFrame => 0x81]) ∧
    (∀ i, parse f = .ok i → ∃ (status : Byte) (payload : List Byte), g = status :: payload ∧
      (status ≠ 0x00 → payload = []) ∧
      (status = 0x00 →
        match i with
        | .hex2b a => (∃ b, hexToBytes u a = .ok b ∧ payload = be b.length 4 ++ b) ∧ g.length = 5 + a.length / 2
        | .b2hex a => payload = be (bytesToHex a).length 4 ++ bytesToHex a ∧ g.length = 5 + 2 * a.length
        | .b32dec a => (∃ key, decode a = .ok key ∧ payload = key.val) ∧ g.length = 21
        | .hmac key message => payload = (hmac sha1 key message).val ∧ g.length = 21
        | .ctr t => payload = be (t.toNat / 1000 / 30) 8 ∧ g.length = 9
        | .trunc d => payload = be (truncate d).2.2.toNat 4 ∧ g.length = 5
        | .derive secret t =>
          (∃ code, deriveCode sha1 u secret t = .ok code ∧ payload = be code.toNat 4) ∧ g.length = 5
        | .secrem t => payload = be (30 - t.toNat / 1000 % 30) 1 ∧ g.length = 2))

/-- U4, R286 item 3: while the host takes no response the block stays in `RESPOND`, unchanged. -/
def Obligations.ResponseWaitsForTheHost : Prop :=
  ∀ s : State, s.resetIn = false → s.phase = .respond → s.rspReady = false → step s = .next s

/-- R245: in every state of the invariant that is about to respond, a success frame has at least 2 bytes and begins with
`00`, and an error frame is one byte, one of `01 02 80 81`. -/
def Obligations.ErrorsAreToldByTheFrame : Prop :=
  ∀ s : State, s.Inv → s.phase = .respond →
    (s.err = 0x00 → 2 ≤ s.response.length ∧ s.response.head? = some 0x00) ∧
    (s.err ≠ 0x00 → s.response = [s.err] ∧ (s.err = 0x01 ∨ s.err = 0x02 ∨ s.err = 0x80 ∨ s.err = 0x81))

/-- R36: reset is taken in every phase, before anything else: the idle state, no response, no request outstanding; and no
transition consumes a reply while no request is outstanding. -/
def Obligations.ResetInEveryPhase : Prop :=
  (∀ s : State, s.resetIn = true →
    ∃ t, step s = .next t ∧ t.Idle ∧ t.phase = .idle ∧ t.hashPort = none ∧ t.trace = s.trace ++ [.reset]) ∧
  (∀ s t : State, s.hashPort = none → step s = .next t →
    ∃ es, t.trace = s.trace ++ es ∧ ∀ r, Event.hashReply r ∉ es)

/-- What responding and reset leave of the outside: the frames waiting at the CMD port, the parameters, and the host's
readiness stay; reset's input is released. This is the model's choice (logs 4 and 10). -/
def Obligations.RespondAndResetLeaveTheOutside : Prop :=
  ∀ s t : State, s.resetIn = true ∨ s.phase = .respond → step s = .next t →
    t.cmdPort = s.cmdPort ∧ t.rspReady = s.rspReady ∧ t.hexUpper = s.hexUpper ∧ t.collaborator = s.collaborator ∧
      t.resetIn = false

/-- R280: the value of every piece of state after reset. -/
def Obligations.ResetValues : Prop :=
  State.reset.Idle ∧ State.reset.phase = .idle ∧ State.reset.op = 0 ∧ State.reset.err = 0 ∧
  State.reset.now = 0 ∧ State.reset.cnt = 0 ∧
  (∀ x ∈ State.reset.keyb.val ++ State.reset.kblk.val ++ State.reset.ihash.val ++ State.reset.dig.val ++
    State.reset.cbytes.val ++ State.reset.chex.val, x = 0) ∧
  State.reset.off = 0 ∧ State.reset.bin = 0 ∧ State.reset.code = 0 ∧
  State.reset.opa = [] ∧ State.reset.opb = [] ∧ State.reset.res = [] ∧
  State.reset.cmdReady = true ∧ State.reset.hashPort = none

/-! ### Waiting (70_reset_and_hazards.md R287) -/

/-- R287: with a collaborator that does not answer, the block stays in its `WAIT_` phase, unchanged, and emits nothing
(93_implementation_defined.md U4: no transition is enabled and the state does not change); and whatever the collaborator does, no transition leaves a `WAIT_` phase, or changes anything in one, other than the reply or
reset. -/
def Obligations.WaitsEndOnlyByReplyOrReset : Prop :=
  (∀ (s : State) (m : Frame), s.resetIn = false → s.phase.waiting = true → s.hashPort = some m →
    s.collaborator.answer m = none → step s = .next s) ∧
  (∀ s t : State, s.phase.waiting = true → step s = .next t →
    t = s ∨ t.trace = s.trace ++ [.reset] ∨ ∃ r es, t.trace = s.trace ++ .hashReply r :: es)

/-- R284: the commands that issue no request work without a collaborator, whatever is attached to the HASH port. -/
def Obligations.CommandsWithoutRequestsNeedNoCollaborator : Prop :=
  ∀ (s : State) (f : Frame) (rest : List Frame) (i : Instr), s.Presented f rest → parse f = .ok i →
    (∀ k m, i ≠ .hmac k m) → (∀ a n k, i = .derive a n → decode a ≠ .ok k) →
    ∀ sha1 : Frame → Digest, Runs 3 s (s.answered sha1 f rest [] (responseTo sha1 s.hexUpper i))

/-! ### The whole machine -/

/-- The invariant holds after reset. -/
def Obligations.ResetMeetsTheInvariant : Prop := State.reset.Inv

/-- Every transition keeps the invariant: the idle state is clear (R38), a request is outstanding exactly in a `WAIT_`
phase (R29) and is the one R57 lists, `OP` and `ERR` hold only assigned codes (R28, R90), the registers keep their
ranges (R21) and the buffers their bounds (R51). -/
def Obligations.StepKeepsTheInvariant : Prop :=
  ∀ s t : State, s.Inv → step s = .next t → t.Inv

/-- Every state the block can be in, under any moves of the host and the collaborator, meets the invariant. -/
def Obligations.ReachableStatesMeetTheInvariant : Prop := ∀ s : State, Reachable s → s.Inv

/-- R247: the block never stops: from every state of the invariant a transition answers a next state. -/
def Obligations.BlockNeverStops : Prop := ∀ s : State, s.Inv → ∃ t, step s = .next t

/-- R60 items 1 to 3, R57, R29: in every reachable state the events at the ports obey the protocol: a frame is accepted only when
the block is idle, each accepted command gets one response before the next frame is accepted unless reset cuts it off,
and requests and their replies alternate between a command's acceptance and its response. -/
def Obligations.PortsFollowTheProtocol : Prop := ∀ s : State, Reachable s → s.TraceOk

/-- Every transition keeps the protocol, from every state that obeys it. -/
def Obligations.StepKeepsTheProtocol : Prop := ∀ s t : State, s.TraceOk → step s = .next t → t.TraceOk

/-- No transition changes the parameters of R8 (`HEX_UPPER`, and a collaborator that is a function), nor the host's
readiness to take a response, which R20 does not count as the block's. That they are fields of the state, and that
completion and reset leave them as they are, is the model's choice (logs 2, 3, 4 and 10). -/
def Obligations.ParametersNeverChange : Prop :=
  ∀ s t : State, step s = .next t →
    t.hexUpper = s.hexUpper ∧ t.rspReady = s.rspReady ∧
    (∀ sha1, s.collaborator.Computes sha1 → t.collaborator = s.collaborator)

/-- R65: the inner request begins with 64 bytes from which the block key is recovered by XOR with `0x36`, the outer one
likewise with `0x5c`. -/
def Obligations.RequestsRevealTheBlockKey : Prop :=
  ∀ s : State, s.Inv →
    (s.phase = .waitInner → ∃ m, s.hashPort = some m ∧ (m.take 64).map (· ^^^ 0x36) = s.kblk.val) ∧
    (s.phase = .waitOuter → ∃ m, s.hashPort = some m ∧ (m.take 64).map (· ^^^ 0x5c) = s.kblk.val)

/-- R58: the lengths of the requests: the inner one `64 + len(message)`, 72 for DERIVE, the outer one 84, the key request at
least 65; none longer than `64 + 2^32 - 1`. -/
def Obligations.RequestLengths : Prop :=
  ∀ (s : State) (m : Frame), s.Inv → s.hashPort = some m →
    (s.phase = .waitInner → m.length = 64 + s.message.length ∧ (s.op = 0x07 → m.length = 72)) ∧
    (s.phase = .waitOuter → m.length = 84) ∧
    (s.phase = .waitKeyhash → m = s.opa ∧ 65 ≤ m.length) ∧
    m.length ≤ 0x10000003F

/-- R25: the sequence of `PHASE` values of every command and case. -/
def Obligations.PhaseSequences : Prop :=
  ∀ (s : State) (f : Frame) (rest : List Frame) (sha1 : Frame → Digest),
    s.Presented f rest → s.collaborator.Computes sha1 →
    (∀ e, parse f = .error e → phaseTrail 2 s = [.idle, .respond, .idle]) ∧
    (∀ i, parse f = .ok i → (∀ k m, i ≠ .hmac k m) → (∀ a n, i ≠ .derive a n) →
      phaseTrail 3 s = [.idle, .exec, .respond, .idle]) ∧
    (∀ k m, parse f = .ok (.hmac k m) → k.length ≤ 64 →
      phaseTrail 5 s = [.idle, .exec, .waitInner, .waitOuter, .respond, .idle]) ∧
    (∀ k m, parse f = .ok (.hmac k m) → 64 < k.length →
      phaseTrail 6 s = [.idle, .exec, .waitKeyhash, .waitInner, .waitOuter, .respond, .idle]) ∧
    (∀ a n k, parse f = .ok (.derive a n) → decode a = .ok k →
      phaseTrail 5 s = [.idle, .exec, .waitInner, .waitOuter, .respond, .idle]) ∧
    (∀ a n e, parse f = .ok (.derive a n) → decode a = .error e →
      phaseTrail 3 s = [.idle, .exec, .respond, .idle])

/-- R18: the two views agree. From the idle state with a collaborator that answers every request `m` with `sha1 m`, the
small-step machine ends in the idle state, having emitted exactly the requests and the response the big-step function
gives, after at most 6 transitions (R288). -/
def Obligations.SmallStepAgreesWithBigStep : Prop :=
  ∀ (s : State) (f : Frame) (rest : List Frame) (sha1 : Frame → Digest),
    s.Presented f rest → s.collaborator.Computes sha1 →
    ∃ n ≤ 6, Runs n s (s.answered sha1 f rest (respondTo sha1 s.hexUpper f).1 (respondTo sha1 s.hexUpper f).2)

/-- R15, R37: from any two states that differ in whatever their registers, buffers and HASH port hold and in their past,
the same frame gives the same events at the ports, with the same function as collaborator: no command reads what it has
not written, and no command depends on another. -/
def Obligations.ResponseDependsOnlyOnTheFrame : Prop :=
  ∀ (s s' : State) (f : Frame) (rest rest' : List Frame) (sha1 : Frame → Digest),
    s.phase = .idle → s'.phase = .idle → s.resetIn = false → s'.resetIn = false →
    s.rspReady = true → s'.rspReady = true → s.cmdPort = f :: rest → s'.cmdPort = f :: rest' →
    s.hexUpper = s'.hexUpper → s.collaborator.Computes sha1 → s'.collaborator.Computes sha1 →
    ∃ (n : Nat) (t t' : State) (es : List Event) (g : Frame), Runs n s t ∧ Runs n s' t' ∧
      t.trace = s.trace ++ es ++ [.rsp g] ∧ t'.trace = s'.trace ++ es ++ [.rsp g] ∧ t.Idle ∧ t'.Idle

/-! ### The reference collaborator (44_sha1_collaborator.md) -/

/-- R214: the padding is `0x80`, the least number of zeros that makes the length a positive multiple of 64, and the message
length in bits. -/
def Obligations.Sha1PaddingFillsBlocks : Prop :=
  ∀ m : List Byte, ∃ z : Nat, z = (119 - m.length % 64) % 64 ∧
    Sha1.pad m = m ++ [0x80] ++ List.replicate z 0 ++ be (8 * m.length) 8 ∧
    (Sha1.pad m).length % 64 = 0 ∧ 0 < (Sha1.pad m).length ∧
    ∀ z', (m.length + 1 + z' + 8) % 64 = 0 → z ≤ z'

/-- R220: the check values of the reference instantiation. -/
def Obligations.Sha1CheckValues : Prop :=
  (Sha1.sha1 []).val =
    [0xda, 0x39, 0xa3, 0xee, 0x5e, 0x6b, 0x4b, 0x0d, 0x32, 0x55, 0xbf, 0xef, 0x95, 0x60, 0x18, 0x90, 0xaf, 0xd8, 0x07, 0x09] ∧
  (Sha1.sha1 (ascii "abc")).val =
    [0xa9, 0x99, 0x3e, 0x36, 0x47, 0x06, 0x81, 0x6a, 0xba, 0x3e, 0x25, 0x71, 0x78, 0x50, 0xc2, 0x6c, 0x9c, 0xd0, 0xd8, 0x9d] ∧
  (Sha1.sha1 (ascii "abcdbcdecdefdefgefghfghighijhijkijkljklmklmnlmnomnopnopq")).val =
    [0x84, 0x98, 0x3e, 0x44, 0x1c, 0x3b, 0xd2, 0x6e, 0xba, 0xae, 0x4a, 0xa1, 0xf9, 0x51, 0x29, 0xe5, 0xe5, 0x46, 0x70, 0xf1]

/-- R191 (its example): with the FIPS 180-1 collaborator, the RFC 6238 secret at 59 seconds gives the code 287082. -/
def Obligations.DeriveExampleCode : Prop :=
  responseTo Sha1.sha1 .accept (.derive (ascii "GEZDGNBVGY3TQOJQGEZDGNBVGY3TQOJQ") 59000) = [0x00, 0x00, 0x04, 0x61, 0x6a]

/-! ### Byte order (00_scope.md) -/

/-- R11: byte `i` of `be(v, n)` is `(v >> (8 * (n - 1 - i))) & 0xFF`, most significant first; `unbe` is its inverse, the sum
of `b[i] * 2^(8 * (len(b) - 1 - i))`. -/
def Obligations.BytesAreBigEndian : Prop :=
  (∀ v n : Nat, v < 2 ^ (8 * n) → (be v n).length = n ∧
    (∀ i < n, ((be v n).getD i 0).toNat = v >>> (8 * (n - 1 - i)) % 256) ∧ unbe (be v n) = v) ∧
  (∀ b : List Byte, be (unbe b) b.length = b ∧
    unbe b = ((List.range b.length).map fun i => (b.getD i 0).toNat * 2 ^ (8 * (b.length - 1 - i))).sum)
end

