-- ==== Sys2Proof/Laws/Bytes.lean ====
section
/-! SUPPORT. Laws of the byte order and of byte registers (00_scope.md R11). -/

namespace Sys2Proof

@[simp] theorem length_bytes {n : Nat} (b : Bytes n) : b.val.length = n := b.property

@[simp] theorem val_zeroBytes (n : Nat) : (zeroBytes n).val = List.replicate n 0 := rfl

@[simp] theorem val_beBytes (n v : Nat) : (beBytes n v).val = be v n := rfl

theorem foldl_unbe (b : List Byte) (v : Nat) :
    b.foldl (fun v x => v * 256 + x.toNat) v = v * 256 ^ b.length + unbe b := by
  induction b generalizing v with
  | nil => simp [unbe]
  | cons x b ih =>
    have h0 := ih (0 * 256 + x.toNat)
    simp only [unbe] at h0 ih ⊢
    rw [List.foldl_cons, List.foldl_cons, ih, h0, List.length_cons]
    ring

/-- A right shift by whole bytes is a division by a power of 256 (R10). -/
theorem shiftRight_bytes (v n : Nat) : v >>> (8 * n) = v / 256 ^ n := by
  rw [Nat.shiftRight_eq_div_pow, pow_mul]; norm_num

/-- The first byte is the most significant (R11). -/
theorem unbe_cons (x : Byte) (b : List Byte) : unbe (x :: b) = x.toNat * 256 ^ b.length + unbe b := by
  simpa [unbe] using foldl_unbe b x.toNat

@[simp] theorem unbe_nil : unbe [] = 0 := rfl

theorem unbe_lt (b : List Byte) : unbe b < 256 ^ b.length := by
  induction b with
  | nil => simp
  | cons x b ih =>
    have hx : x.toNat ≤ 255 := by have := x.isLt; omega
    have := Nat.mul_le_mul_right (256 ^ b.length) hx
    rw [unbe_cons, List.length_cons, pow_succ]
    omega

/-- `unbe` is the inverse of `be`, which keeps the low `n` bytes (R11). -/
theorem unbe_be (v n : Nat) : unbe (be v n) = v % 256 ^ n := by
  induction n with
  | zero => simp [be, Nat.mod_one]
  | succ n ih =>
    have hm : v % 256 ^ (n + 1) = v % 256 ^ n + 256 ^ n * (v / 256 ^ n % 256) := by rw [pow_succ, Nat.mod_mul]
    rw [be, unbe_cons, length_be, ih, shiftRight_bytes, BitVec.toNat_ofNat, hm]
    norm_num
    ring

theorem unbe_be_of_lt {v n : Nat} (h : v < 256 ^ n) : unbe (be v n) = v := by
  rw [unbe_be, Nat.mod_eq_of_lt h]

theorem be_add_mul (v w n : Nat) : be (v + w * 256 ^ n) n = be v n := by
  induction n generalizing w with
  | zero => rfl
  | succ n ih =>
    have hm : v + w * 256 ^ (n + 1) = v + w * 256 * 256 ^ n := by ring
    have hd : (v + w * 256 * 256 ^ n) / 256 ^ n = v / 256 ^ n + w * 256 :=
      Nat.add_mul_div_right _ _ (by norm_num)
    rw [be, be, hm, ih (w * 256), shiftRight_bytes, shiftRight_bytes, hd]
    congr 1
    apply BitVec.eq_of_toNat_eq
    simp

/-- `be` is the inverse of `unbe` (R11). -/
theorem be_unbe (b : List Byte) : be (unbe b) b.length = b := by
  induction b with
  | nil => rfl
  | cons x b ih =>
    have hd : (unbe b + x.toNat * 256 ^ b.length) / 256 ^ b.length = x.toNat := by
      rw [Nat.add_mul_div_right _ _ (by norm_num), Nat.div_eq_of_lt (unbe_lt b), Nat.zero_add]
    rw [List.length_cons, be, unbe_cons, Nat.add_comm, be_add_mul, ih, shiftRight_bytes, hd]
    simp

/-- A key of at most `n` bytes is followed by zeros up to `n` (42_hmac_engine.md R160 step 2). -/
theorem val_padRight {n : Nat} {b : List Byte} (h : b.length ≤ n) :
    (padRight n b).val = b ++ List.replicate (n - b.length) 0 := by
  simp [padRight, List.take_append, List.take_of_length_le h, List.take_replicate]

/-- A value that fills its register is stored as it is. -/
theorem val_padRight_full {n : Nat} {b : List Byte} (h : b.length = n) : (padRight n b).val = b := by
  subst h; simp [val_padRight (Nat.le_refl _)]

/-- Only the first `n` bytes matter to a register of `n` bytes. -/
theorem padRight_append {n : Nat} (b c : List Byte) (h : n ≤ b.length) : (padRight n (b ++ c)).val = b.take n := by
  simp [padRight, List.take_append_of_le_length, h]

end Sys2Proof
end

