-- ==== Sys2Proof/Laws/Codec.lean ====
section
/-! SUPPORT. Small laws of the character tables and codecs (30_encoding.md R95 to R99). -/

namespace Sys2Proof.Machine

/-- `hexval(hexdigit(n)) = n` (30_encoding.md R96), under either value of `HEX_UPPER`. -/
theorem hexval_hexdigit (u : Config.HexUpper) (n : Nat) (h : n < 16) : hexval u (hexdigit n) = some n := by
  revert n
  cases u <;> decide

/-- A hex digit's value is in 0..15 (R95). -/
theorem hexval_lt {u : Config.HexUpper} {c : Byte} {x : Nat} (h : hexval u c = some x) : x < 16 := by
  unfold hexval at h
  dsimp only at h
  split at h
  · simp at h; omega
  split at h
  · simp at h; omega
  split at h
  · split at h
    · simp at h; omega
    · simp at h
  · simp at h

/-- A symbol's value is in 0..31 (R97). -/
theorem b32val_lt {c : Byte} {x : Nat} (h : b32val c = some x) : x < 32 := by
  unfold b32val at h
  dsimp only at h
  split at h
  · simp at h; omega
  split at h
  · simp at h; omega
  · simp at h

/-- `upper` is idempotent (R99). -/
@[simp] theorem upper_upper (c : Byte) : upper (upper c) = upper c := by
  revert c; decide

@[simp] theorem length_bytesToHex (b : List Byte) : (bytesToHex b).length = 2 * b.length := by
  induction b with
  | nil => rfl
  | cons x b ih => simp only [bytesToHex, List.length_cons, ih]; omega

/-- Two hex digits of a byte put together are the byte (40_hex_codec.md R120). -/
theorem nibbles (x : Byte) :
    (x >>> 4).toNat < 16 ∧ (x &&& 0x0F).toNat < 16 ∧
    BitVec.ofNat 8 (16 * (x >>> 4).toNat + (x &&& 0x0F).toNat) = x := by
  revert x; decide

end Sys2Proof.Machine
end

