-- ==== Sys2Proof/Laws/Decode.lean ====
section
/-! SUPPORT. One law for each reader of `parse` and its writer (30_encoding.md R82, R83, R88). -/

namespace Sys2Proof

theorem blobFits_iff (a : List Byte) : blobFits a = true ↔ a.length < 2 ^ 32 := by
  rw [blobFits, decide_eq_true_iff, Config.blobBound]

/-- The length limit of B2HEX (R88, 40_hex_codec.md R128). -/
theorem wf_b2hex_iff (a : List Byte) : (Instr.b2hex a).wf = true ↔ a.length ≤ 0x7FFFFFFF := by
  rw [Instr.wf, decide_eq_true_iff, Config.b2hexMax]

/-- A blob is read back, and what follows it is left (R82). -/
theorem takeBlob_blob (a r : List Byte) (h : a.length < 2 ^ 32) : takeBlob (blob a ++ r) = .ok (a, r) := by
  have h4 : (be a.length 4).length = 4 := length_be _ _
  have h1 : (blob a ++ r).take 4 = be a.length 4 := by simp [blob, List.append_assoc, h4]
  have h2 : (blob a ++ r).drop 4 = a ++ r := by simp [blob, List.append_assoc, h4]
  have h3 : unbe (be a.length 4) = a.length := unbe_be_of_lt (by norm_num; omega)
  have h5 : ¬(blob a ++ r).length < 4 := by simp only [blob, List.length_append, h4]; omega
  rw [takeBlob, if_neg h5, h1, h2, h3, if_neg (by simp)]
  simp

/-- What is read as a blob is one (R82). -/
theorem takeBlob_ok {r a r' : List Byte} (h : takeBlob r = .ok (a, r')) : r = blob a ++ r' ∧ a.length < 2 ^ 32 := by
  unfold takeBlob at h
  split at h
  · cases h
  split at h
  · cases h
  rename_i h1 h2
  simp only [Except.ok.injEq, Prod.mk.injEq] at h
  obtain ⟨ha, hr⟩ := h
  have hl : (r.take 4).length = 4 := by simp; omega
  have hu := unbe_lt (r.take 4)
  have hb := be_unbe (r.take 4)
  rw [hl] at hu hb
  have hal : a.length = unbe (r.take 4) := by rw [← ha, List.length_take]; omega
  refine ⟨?_, by rw [hal]; simpa using hu⟩
  rw [blob, hal, hb, ← ha, ← hr, List.append_assoc, List.take_append_drop, List.take_append_drop]

/-- A fixed field is read back, and what follows it is left (R83). -/
theorem takeFixed_append {n : Nat} (b : Bytes n) (r : List Byte) : takeFixed n (b.val ++ r) = .ok (b, r) := by
  have hb := b.property
  rw [takeFixed, dif_pos (by simp [hb])]
  simp [hb]

/-- What is read as a fixed field stands there (R83). -/
theorem takeFixed_ok {n : Nat} {r r' : List Byte} {b : Bytes n} (h : takeFixed n r = .ok (b, r')) :
    r = b.val ++ r' := by
  unfold takeFixed at h
  split at h
  · simp only [Except.ok.injEq, Prod.mk.injEq] at h
    rw [← h.1, ← h.2]
    simp
  · cases h

/-- A time field is read back (R83, R89). -/
theorem timeOf_be (t : Word64) : timeOf (beBytes 8 t.toNat) = t := by
  have : unbe (be t.toNat 8) = t.toNat := unbe_be_of_lt (by have := t.isLt; norm_num; omega)
  simp [timeOf, this]

/-- What is read as a time is written by the same bytes (R83, R89). -/
theorem be_timeOf (b : Bytes 8) : be (timeOf b).toNat 8 = b.val := by
  have hl := b.property
  have hu := unbe_lt b.val
  have hb := be_unbe b.val
  rw [hl] at hu hb
  have hm : unbe b.val % 2 ^ 64 = unbe b.val := Nat.mod_eq_of_lt (by norm_num at hu ⊢; omega)
  rw [timeOf, BitVec.toNat_ofNat, hm, hb]

/-- A frame's last field ends it (R88). -/
theorem endFrame_ok {i j : Instr} {r : List Byte} (h : endFrame i r = .ok j) : r = [] ∧ j = i := by
  cases r with
  | nil => simpa [endFrame, eq_comm] using h
  | cons x r => simp [endFrame] at h

end Sys2Proof
end

