-- ==== Sys2Proof/Laws/State.lean ====
section
/-! SUPPORT. One lemma per field per update of the state: what each named operation leaves in each register. -/

namespace Sys2Proof.Machine

/-! ### `State.latch` -/

@[simp] theorem latch_phase (i : Instr) (s : State) : (s.latch i).phase = .exec := rfl
@[simp] theorem latch_op (i : Instr) (s : State) : (s.latch i).op = opcode i := rfl
@[simp] theorem latch_err (i : Instr) (s : State) : (s.latch i).err = s.err := rfl
@[simp] theorem latch_now (i : Instr) (s : State) : (s.latch i).now = operandT i := rfl
@[simp] theorem latch_keyb (i : Instr) (s : State) : (s.latch i).keyb = s.keyb := rfl
@[simp] theorem latch_cnt (i : Instr) (s : State) : (s.latch i).cnt = s.cnt := rfl
@[simp] theorem latch_chex (i : Instr) (s : State) : (s.latch i).chex = s.chex := rfl
@[simp] theorem latch_cbytes (i : Instr) (s : State) : (s.latch i).cbytes = s.cbytes := rfl
@[simp] theorem latch_kblk (i : Instr) (s : State) : (s.latch i).kblk = s.kblk := rfl
@[simp] theorem latch_ihash (i : Instr) (s : State) : (s.latch i).ihash = s.ihash := rfl
@[simp] theorem latch_dig (i : Instr) (s : State) : (s.latch i).dig = s.dig := rfl
@[simp] theorem latch_off (i : Instr) (s : State) : (s.latch i).off = s.off := rfl
@[simp] theorem latch_bin (i : Instr) (s : State) : (s.latch i).bin = s.bin := rfl
@[simp] theorem latch_code (i : Instr) (s : State) : (s.latch i).code = s.code := rfl
@[simp] theorem latch_opa (i : Instr) (s : State) : (s.latch i).opa = operandA i := rfl
@[simp] theorem latch_opb (i : Instr) (s : State) : (s.latch i).opb = operandB i := rfl
@[simp] theorem latch_res (i : Instr) (s : State) : (s.latch i).res = s.res := rfl
@[simp] theorem latch_hashPort (i : Instr) (s : State) : (s.latch i).hashPort = s.hashPort := rfl
@[simp] theorem latch_cmdPort (i : Instr) (s : State) : (s.latch i).cmdPort = s.cmdPort := rfl
@[simp] theorem latch_rspReady (i : Instr) (s : State) : (s.latch i).rspReady = s.rspReady := rfl
@[simp] theorem latch_resetIn (i : Instr) (s : State) : (s.latch i).resetIn = s.resetIn := rfl
@[simp] theorem latch_hexUpper (i : Instr) (s : State) : (s.latch i).hexUpper = s.hexUpper := rfl
@[simp] theorem latch_collaborator (i : Instr) (s : State) : (s.latch i).collaborator = s.collaborator := rfl
@[simp] theorem latch_trace (i : Instr) (s : State) : (s.latch i).trace = s.trace := rfl

/-! ### `State.raise` -/

@[simp] theorem raise_phase (e : Byte) (s : State) : (s.raise e).phase = .respond := rfl
@[simp] theorem raise_op (e : Byte) (s : State) : (s.raise e).op = s.op := rfl
@[simp] theorem raise_err (e : Byte) (s : State) : (s.raise e).err = e := rfl
@[simp] theorem raise_now (e : Byte) (s : State) : (s.raise e).now = s.now := rfl
@[simp] theorem raise_keyb (e : Byte) (s : State) : (s.raise e).keyb = s.keyb := rfl
@[simp] theorem raise_cnt (e : Byte) (s : State) : (s.raise e).cnt = s.cnt := rfl
@[simp] theorem raise_chex (e : Byte) (s : State) : (s.raise e).chex = s.chex := rfl
@[simp] theorem raise_cbytes (e : Byte) (s : State) : (s.raise e).cbytes = s.cbytes := rfl
@[simp] theorem raise_kblk (e : Byte) (s : State) : (s.raise e).kblk = s.kblk := rfl
@[simp] theorem raise_ihash (e : Byte) (s : State) : (s.raise e).ihash = s.ihash := rfl
@[simp] theorem raise_dig (e : Byte) (s : State) : (s.raise e).dig = s.dig := rfl
@[simp] theorem raise_off (e : Byte) (s : State) : (s.raise e).off = s.off := rfl
@[simp] theorem raise_bin (e : Byte) (s : State) : (s.raise e).bin = s.bin := rfl
@[simp] theorem raise_code (e : Byte) (s : State) : (s.raise e).code = s.code := rfl
@[simp] theorem raise_opa (e : Byte) (s : State) : (s.raise e).opa = s.opa := rfl
@[simp] theorem raise_opb (e : Byte) (s : State) : (s.raise e).opb = s.opb := rfl
@[simp] theorem raise_res (e : Byte) (s : State) : (s.raise e).res = s.res := rfl
@[simp] theorem raise_hashPort (e : Byte) (s : State) : (s.raise e).hashPort = s.hashPort := rfl
@[simp] theorem raise_cmdPort (e : Byte) (s : State) : (s.raise e).cmdPort = s.cmdPort := rfl
@[simp] theorem raise_rspReady (e : Byte) (s : State) : (s.raise e).rspReady = s.rspReady := rfl
@[simp] theorem raise_resetIn (e : Byte) (s : State) : (s.raise e).resetIn = s.resetIn := rfl
@[simp] theorem raise_hexUpper (e : Byte) (s : State) : (s.raise e).hexUpper = s.hexUpper := rfl
@[simp] theorem raise_collaborator (e : Byte) (s : State) : (s.raise e).collaborator = s.collaborator := rfl
@[simp] theorem raise_trace (e : Byte) (s : State) : (s.raise e).trace = s.trace := rfl

/-! ### `State.complete` -/

@[simp] theorem complete_phase (p : List Byte) (s : State) : (s.complete p).phase = .respond := rfl
@[simp] theorem complete_op (p : List Byte) (s : State) : (s.complete p).op = s.op := rfl
@[simp] theorem complete_err (p : List Byte) (s : State) : (s.complete p).err = statusOk := rfl
@[simp] theorem complete_now (p : List Byte) (s : State) : (s.complete p).now = s.now := rfl
@[simp] theorem complete_keyb (p : List Byte) (s : State) : (s.complete p).keyb = s.keyb := rfl
@[simp] theorem complete_cnt (p : List Byte) (s : State) : (s.complete p).cnt = s.cnt := rfl
@[simp] theorem complete_chex (p : List Byte) (s : State) : (s.complete p).chex = s.chex := rfl
@[simp] theorem complete_cbytes (p : List Byte) (s : State) : (s.complete p).cbytes = s.cbytes := rfl
@[simp] theorem complete_kblk (p : List Byte) (s : State) : (s.complete p).kblk = s.kblk := rfl
@[simp] theorem complete_ihash (p : List Byte) (s : State) : (s.complete p).ihash = s.ihash := rfl
@[simp] theorem complete_dig (p : List Byte) (s : State) : (s.complete p).dig = s.dig := rfl
@[simp] theorem complete_off (p : List Byte) (s : State) : (s.complete p).off = s.off := rfl
@[simp] theorem complete_bin (p : List Byte) (s : State) : (s.complete p).bin = s.bin := rfl
@[simp] theorem complete_code (p : List Byte) (s : State) : (s.complete p).code = s.code := rfl
@[simp] theorem complete_opa (p : List Byte) (s : State) : (s.complete p).opa = s.opa := rfl
@[simp] theorem complete_opb (p : List Byte) (s : State) : (s.complete p).opb = s.opb := rfl
@[simp] theorem complete_res (p : List Byte) (s : State) : (s.complete p).res = p := rfl
@[simp] theorem complete_hashPort (p : List Byte) (s : State) : (s.complete p).hashPort = s.hashPort := rfl
@[simp] theorem complete_cmdPort (p : List Byte) (s : State) : (s.complete p).cmdPort = s.cmdPort := rfl
@[simp] theorem complete_rspReady (p : List Byte) (s : State) : (s.complete p).rspReady = s.rspReady := rfl
@[simp] theorem complete_resetIn (p : List Byte) (s : State) : (s.complete p).resetIn = s.resetIn := rfl
@[simp] theorem complete_hexUpper (p : List Byte) (s : State) : (s.complete p).hexUpper = s.hexUpper := rfl
@[simp] theorem complete_collaborator (p : List Byte) (s : State) : (s.complete p).collaborator = s.collaborator := rfl
@[simp] theorem complete_trace (p : List Byte) (s : State) : (s.complete p).trace = s.trace := rfl

/-! ### `State.request` -/

@[simp] theorem request_phase (w : Phase) (m : Frame) (s : State) : (s.request w m).phase = w := rfl
@[simp] theorem request_op (w : Phase) (m : Frame) (s : State) : (s.request w m).op = s.op := rfl
@[simp] theorem request_err (w : Phase) (m : Frame) (s : State) : (s.request w m).err = s.err := rfl
@[simp] theorem request_now (w : Phase) (m : Frame) (s : State) : (s.request w m).now = s.now := rfl
@[simp] theorem request_keyb (w : Phase) (m : Frame) (s : State) : (s.request w m).keyb = s.keyb := rfl
@[simp] theorem request_cnt (w : Phase) (m : Frame) (s : State) : (s.request w m).cnt = s.cnt := rfl
@[simp] theorem request_chex (w : Phase) (m : Frame) (s : State) : (s.request w m).chex = s.chex := rfl
@[simp] theorem request_cbytes (w : Phase) (m : Frame) (s : State) : (s.request w m).cbytes = s.cbytes := rfl
@[simp] theorem request_kblk (w : Phase) (m : Frame) (s : State) : (s.request w m).kblk = s.kblk := rfl
@[simp] theorem request_ihash (w : Phase) (m : Frame) (s : State) : (s.request w m).ihash = s.ihash := rfl
@[simp] theorem request_dig (w : Phase) (m : Frame) (s : State) : (s.request w m).dig = s.dig := rfl
@[simp] theorem request_off (w : Phase) (m : Frame) (s : State) : (s.request w m).off = s.off := rfl
@[simp] theorem request_bin (w : Phase) (m : Frame) (s : State) : (s.request w m).bin = s.bin := rfl
@[simp] theorem request_code (w : Phase) (m : Frame) (s : State) : (s.request w m).code = s.code := rfl
@[simp] theorem request_opa (w : Phase) (m : Frame) (s : State) : (s.request w m).opa = s.opa := rfl
@[simp] theorem request_opb (w : Phase) (m : Frame) (s : State) : (s.request w m).opb = s.opb := rfl
@[simp] theorem request_res (w : Phase) (m : Frame) (s : State) : (s.request w m).res = s.res := rfl
@[simp] theorem request_hashPort (w : Phase) (m : Frame) (s : State) : (s.request w m).hashPort = some m := rfl
@[simp] theorem request_cmdPort (w : Phase) (m : Frame) (s : State) : (s.request w m).cmdPort = s.cmdPort := rfl
@[simp] theorem request_rspReady (w : Phase) (m : Frame) (s : State) : (s.request w m).rspReady = s.rspReady := rfl
@[simp] theorem request_resetIn (w : Phase) (m : Frame) (s : State) : (s.request w m).resetIn = s.resetIn := rfl
@[simp] theorem request_hexUpper (w : Phase) (m : Frame) (s : State) : (s.request w m).hexUpper = s.hexUpper := rfl
@[simp] theorem request_collaborator (w : Phase) (m : Frame) (s : State) : (s.request w m).collaborator = s.collaborator := rfl
@[simp] theorem request_trace (w : Phase) (m : Frame) (s : State) : (s.request w m).trace = s.trace ++ [.hashReq m] := rfl

/-! ### `State.reply` -/

@[simp] theorem reply_phase (r : Digest) (c : Collaborator) (s : State) : (s.reply r c).phase = s.phase := rfl
@[simp] theorem reply_op (r : Digest) (c : Collaborator) (s : State) : (s.reply r c).op = s.op := rfl
@[simp] theorem reply_err (r : Digest) (c : Collaborator) (s : State) : (s.reply r c).err = s.err := rfl
@[simp] theorem reply_now (r : Digest) (c : Collaborator) (s : State) : (s.reply r c).now = s.now := rfl
@[simp] theorem reply_keyb (r : Digest) (c : Collaborator) (s : State) : (s.reply r c).keyb = s.keyb := rfl
@[simp] theorem reply_cnt (r : Digest) (c : Collaborator) (s : State) : (s.reply r c).cnt = s.cnt := rfl
@[simp] theorem reply_chex (r : Digest) (c : Collaborator) (s : State) : (s.reply r c).chex = s.chex := rfl
@[simp] theorem reply_cbytes (r : Digest) (c : Collaborator) (s : State) : (s.reply r c).cbytes = s.cbytes := rfl
@[simp] theorem reply_kblk (r : Digest) (c : Collaborator) (s : State) : (s.reply r c).kblk = s.kblk := rfl
@[simp] theorem reply_ihash (r : Digest) (c : Collaborator) (s : State) : (s.reply r c).ihash = s.ihash := rfl
@[simp] theorem reply_dig (r : Digest) (c : Collaborator) (s : State) : (s.reply r c).dig = s.dig := rfl
@[simp] theorem reply_off (r : Digest) (c : Collaborator) (s : State) : (s.reply r c).off = s.off := rfl
@[simp] theorem reply_bin (r : Digest) (c : Collaborator) (s : State) : (s.reply r c).bin = s.bin := rfl
@[simp] theorem reply_code (r : Digest) (c : Collaborator) (s : State) : (s.reply r c).code = s.code := rfl
@[simp] theorem reply_opa (r : Digest) (c : Collaborator) (s : State) : (s.reply r c).opa = s.opa := rfl
@[simp] theorem reply_opb (r : Digest) (c : Collaborator) (s : State) : (s.reply r c).opb = s.opb := rfl
@[simp] theorem reply_res (r : Digest) (c : Collaborator) (s : State) : (s.reply r c).res = s.res := rfl
@[simp] theorem reply_hashPort (r : Digest) (c : Collaborator) (s : State) : (s.reply r c).hashPort = none := rfl
@[simp] theorem reply_cmdPort (r : Digest) (c : Collaborator) (s : State) : (s.reply r c).cmdPort = s.cmdPort := rfl
@[simp] theorem reply_rspReady (r : Digest) (c : Collaborator) (s : State) : (s.reply r c).rspReady = s.rspReady := rfl
@[simp] theorem reply_resetIn (r : Digest) (c : Collaborator) (s : State) : (s.reply r c).resetIn = s.resetIn := rfl
@[simp] theorem reply_hexUpper (r : Digest) (c : Collaborator) (s : State) : (s.reply r c).hexUpper = s.hexUpper := rfl
@[simp] theorem reply_collaborator (r : Digest) (c : Collaborator) (s : State) : (s.reply r c).collaborator = c := rfl
@[simp] theorem reply_trace (r : Digest) (c : Collaborator) (s : State) : (s.reply r c).trace = s.trace ++ [.hashReply r] := rfl

/-! ### `State.resetNow` -/

@[simp] theorem resetNow_phase (s : State) : (s.resetNow).phase = .idle := rfl
@[simp] theorem resetNow_op (s : State) : (s.resetNow).op = 0 := rfl
@[simp] theorem resetNow_err (s : State) : (s.resetNow).err = 0 := rfl
@[simp] theorem resetNow_now (s : State) : (s.resetNow).now = 0 := rfl
@[simp] theorem resetNow_keyb (s : State) : (s.resetNow).keyb = zeroBytes 20 := rfl
@[simp] theorem resetNow_cnt (s : State) : (s.resetNow).cnt = 0 := rfl
@[simp] theorem resetNow_chex (s : State) : (s.resetNow).chex = zeroBytes 16 := rfl
@[simp] theorem resetNow_cbytes (s : State) : (s.resetNow).cbytes = zeroBytes 8 := rfl
@[simp] theorem resetNow_kblk (s : State) : (s.resetNow).kblk = zeroBytes 64 := rfl
@[simp] theorem resetNow_ihash (s : State) : (s.resetNow).ihash = zeroBytes 20 := rfl
@[simp] theorem resetNow_dig (s : State) : (s.resetNow).dig = zeroBytes 20 := rfl
@[simp] theorem resetNow_off (s : State) : (s.resetNow).off = 0 := rfl
@[simp] theorem resetNow_bin (s : State) : (s.resetNow).bin = 0 := rfl
@[simp] theorem resetNow_code (s : State) : (s.resetNow).code = 0 := rfl
@[simp] theorem resetNow_opa (s : State) : (s.resetNow).opa = [] := rfl
@[simp] theorem resetNow_opb (s : State) : (s.resetNow).opb = [] := rfl
@[simp] theorem resetNow_res (s : State) : (s.resetNow).res = [] := rfl
@[simp] theorem resetNow_hashPort (s : State) : (s.resetNow).hashPort = none := rfl
@[simp] theorem resetNow_cmdPort (s : State) : (s.resetNow).cmdPort = s.cmdPort := rfl
@[simp] theorem resetNow_rspReady (s : State) : (s.resetNow).rspReady = s.rspReady := rfl
@[simp] theorem resetNow_resetIn (s : State) : (s.resetNow).resetIn = false := rfl
@[simp] theorem resetNow_hexUpper (s : State) : (s.resetNow).hexUpper = s.hexUpper := rfl
@[simp] theorem resetNow_collaborator (s : State) : (s.resetNow).collaborator = s.collaborator := rfl
@[simp] theorem resetNow_trace (s : State) : (s.resetNow).trace = s.trace ++ [.reset] := rfl

/-! ### `State.cleared` -/

@[simp] theorem cleared_phase (s : State) : (s.cleared).phase = .idle := rfl
@[simp] theorem cleared_op (s : State) : (s.cleared).op = 0 := rfl
@[simp] theorem cleared_err (s : State) : (s.cleared).err = 0 := rfl
@[simp] theorem cleared_now (s : State) : (s.cleared).now = 0 := rfl
@[simp] theorem cleared_keyb (s : State) : (s.cleared).keyb = zeroBytes 20 := rfl
@[simp] theorem cleared_cnt (s : State) : (s.cleared).cnt = 0 := rfl
@[simp] theorem cleared_chex (s : State) : (s.cleared).chex = zeroBytes 16 := rfl
@[simp] theorem cleared_cbytes (s : State) : (s.cleared).cbytes = zeroBytes 8 := rfl
@[simp] theorem cleared_kblk (s : State) : (s.cleared).kblk = zeroBytes 64 := rfl
@[simp] theorem cleared_ihash (s : State) : (s.cleared).ihash = zeroBytes 20 := rfl
@[simp] theorem cleared_dig (s : State) : (s.cleared).dig = zeroBytes 20 := rfl
@[simp] theorem cleared_off (s : State) : (s.cleared).off = 0 := rfl
@[simp] theorem cleared_bin (s : State) : (s.cleared).bin = 0 := rfl
@[simp] theorem cleared_code (s : State) : (s.cleared).code = 0 := rfl
@[simp] theorem cleared_opa (s : State) : (s.cleared).opa = [] := rfl
@[simp] theorem cleared_opb (s : State) : (s.cleared).opb = [] := rfl
@[simp] theorem cleared_res (s : State) : (s.cleared).res = [] := rfl
@[simp] theorem cleared_hashPort (s : State) : (s.cleared).hashPort = none := rfl
@[simp] theorem cleared_cmdPort (s : State) : (s.cleared).cmdPort = s.cmdPort := rfl
@[simp] theorem cleared_rspReady (s : State) : (s.cleared).rspReady = s.rspReady := rfl
@[simp] theorem cleared_resetIn (s : State) : (s.cleared).resetIn = s.resetIn := rfl
@[simp] theorem cleared_hexUpper (s : State) : (s.cleared).hexUpper = s.hexUpper := rfl
@[simp] theorem cleared_collaborator (s : State) : (s.cleared).collaborator = s.collaborator := rfl
@[simp] theorem cleared_trace (s : State) : (s.cleared).trace = s.trace := rfl

end Sys2Proof.Machine
end

