-- ==== Sys2Proof/Laws/Step.lean ====
section
/-! SUPPORT. What the shared operations can do, said once for each: latching and reading back, loading and accepting a
frame, waiting for a reply, responding, a transition. -/

namespace Sys2Proof.Machine

/-- The registers give back the command that was latched (10_state.md R30, R31). -/
@[simp] theorem latched_latch (i : Instr) (s : State) : (s.latch i).latched = some i := by
  cases i <;> simp [State.latched, opcode, operandA, operandB, operandT]

/-- A frame with an error raises it (10_state.md R30). -/
theorem load_of_error {f : Frame} {e : FrameError} (h : parse f = .error e) (s : State) :
    State.load f s = s.raise (frameStatus e) := by
  simp [State.load, h]

/-- A command is latched (10_state.md R30). -/
theorem load_of_ok {f : Frame} {i : Instr} (h : parse f = .ok i) (s : State) : State.load f s = s.latch i := by
  simp [State.load, h]

/-- What accepting can do (10_state.md R30): nothing without a frame, raise a frame error, or latch a command. -/
theorem accept_cases (s : State) :
    (s.cmdPort = [] ∧ s.accept = s) ∨
    ∃ f rest, s.cmdPort = f :: rest ∧
      ((∃ e, parse f = .error e ∧
          s.accept = State.raise (frameStatus e) { s with cmdPort := rest, trace := s.trace ++ [.cmd f] }) ∨
       ∃ i, parse f = .ok i ∧ s.accept = State.latch i { s with cmdPort := rest, trace := s.trace ++ [.cmd f] }) := by
  unfold State.accept
  split
  · exact .inl ⟨by assumption, rfl⟩
  · rename_i f rest hc
    refine .inr ⟨f, rest, hc, ?_⟩
    cases hp : parse f with
    | error e => exact .inl ⟨e, rfl, load_of_error hp _⟩
    | ok i => exact .inr ⟨i, rfl, load_of_ok hp _⟩

/-- What a `WAIT_` phase can do: nothing, or the transition `k` on the reply to the outstanding request. -/
theorem awaitReply_cases (k : Digest → State → Outcome) (s : State) :
    awaitReply k s = .next s ∨
    ∃ m r c, s.hashPort = some m ∧ s.collaborator.answer m = some (r, c) ∧ awaitReply k s = k r (s.reply r c) := by
  unfold awaitReply
  split
  · exact .inl rfl
  · rename_i m hm
    split
    · exact .inl rfl
    · rename_i r c hr
      exact .inr ⟨m, r, c, hm, hr, rfl⟩

/-- A reply that is due is taken (20_memory.md R56). -/
theorem awaitReply_of_answer {k : Digest → State → Outcome} {s : State} {m : Frame} {r : Digest} {c : Collaborator}
    (hm : s.hashPort = some m) (hr : s.collaborator.answer m = some (r, c)) :
    awaitReply k s = k r (s.reply r c) := by
  simp [awaitReply, hm, hr]

/-- What responding can do (10_state.md R35). -/
theorem respond_cases (s : State) :
    (s.rspReady = false ∧ s.respond = s) ∨
    (s.rspReady = true ∧ s.respond = { s.cleared with trace := s.trace ++ [.rsp s.response] }) := by
  cases h : s.rspReady <;> simp [State.respond, h]

/-- What the outer-hash reply can do (10_state.md R34). -/
theorem onOuterHash_cases (r : Digest) (s : State) :
    (s.op.toNat = 4 ∧ onOuterHash r s = .next ({ s with dig := r }.complete r.val)) ∨
    (s.op.toNat = 7 ∧ onOuterHash r s = .next { s with dig := r }.completeCode) ∨
    (s.op.toNat ≠ 4 ∧ s.op.toNat ≠ 7 ∧ onOuterHash r s = .fault .outerWithoutCommand) := by
  unfold onOuterHash
  dsimp only
  split <;> simp_all

/-- Everything a transition can do, one case per rule of 10_state.md section 7. -/
theorem step_cases (s : State) :
    (s.resetIn = true ∧ step s = .next s.resetNow) ∨
    (s.resetIn = false ∧
      ((s.phase = .idle ∧ step s = .next s.accept) ∨
       (s.phase = .exec ∧ ∃ i, s.latched = some i ∧ step s = exec i s) ∨
       (s.phase = .exec ∧ s.latched = none ∧ step s = .refused .unassignedOp) ∨
       (s.phase = .waitKeyhash ∧ step s = awaitReply onKeyHash s) ∨
       (s.phase = .waitInner ∧ step s = awaitReply onInnerHash s) ∨
       (s.phase = .waitOuter ∧ step s = awaitReply onOuterHash s) ∨
       (s.phase = .respond ∧ step s = .next s.respond))) := by
  cases hr : s.resetIn
  · cases hp : s.phase <;> simp [step, hr, hp]
    cases s.latched <;> simp
  · simp [step, hr]

end Sys2Proof.Machine
end

