-- ==== Sys2Proof/Laws/Exec.lean ====
section
/-! SUPPORT. What the meaning of each command can do, said once for each, what `exec` does at the ports, and the lengths
and ranges of results. -/

namespace Sys2Proof.Machine

/-! ### Lengths, ranges, error kinds -/

/-- The result has half the length of the hex text (40_hex_codec.md R122 item 8). -/
theorem length_of_hexToBytes (u : Config.HexUpper) : ∀ {h b : List Byte}, hexToBytes u h = .ok b → 2 * b.length = h.length
  | [], b, e => by simp [hexToBytes] at e; simp [e]
  | [_], b, e => by simp [hexToBytes] at e
  | _ :: _ :: h, b, e => by
    unfold hexToBytes at e
    split at e
    · rename_i hb
      cases e
      have := length_of_hexToBytes u hb
      simp; omega
    · cases e

/-- The hex codec has one error (40_hex_codec.md R120). -/
theorem hexToBytes_error (u : Config.HexUpper) {h : List Byte} {e : CommandError} (he : hexToBytes u h = .error e) :
    e = .malformedHex := by
  unfold hexToBytes at he
  split at he
  · cases he
  · cases he; rfl
  · split at he <;> cases he
    rfl

/-- The decoder has one error (41_base32_decoder.md R140). -/
theorem decode_error {a : List Byte} {e : CommandError} (he : decode a = .error e) : e = .invalidSecretFormat := by
  unfold decode at he
  dsimp only at he
  split at he
  · cases he; rfl
  · split at he <;> cases he
    rfl

/-- `code` is in 0..999999 (43_totp_deriver.md R184). -/
theorem codeOf_le (b : Word32) : (codeOf b).toNat ≤ 999999 := by
  simp [codeOf, Config.codeMod]; omega

/-- The counter fits its register (43_totp_deriver.md R183 item 3). -/
theorem toNat_counter (t : Word64) : (BitVec.ofNat 64 (counter t.toNat)).toNat = counter t.toNat := by
  have := t.isLt
  rw [BitVec.toNat_ofNat, Nat.mod_eq_of_lt]
  simp only [counter, Config.msPerS, Config.timeStep]
  omega

/-! ### One lemma for each meaning with more than one case -/

theorem execHex2b_cases (a : List Byte) (s : State) :
    (∃ b, hexToBytes s.hexUpper a = .ok b ∧ execHex2b a s = .next ((s.latch (.hex2b a)).complete (blob b))) ∨
    (hexToBytes s.hexUpper a = .error .malformedHex ∧ execHex2b a s = .next ((s.latch (.hex2b a)).raise 0x02)) := by
  cases h : hexToBytes s.hexUpper a with
  | ok b => exact .inl ⟨b, rfl, by simp [execHex2b, operandA, h]⟩
  | error e =>
    have he := hexToBytes_error _ h
    subst he
    exact .inr ⟨rfl, by simp [execHex2b, operandA, h, commandStatus]⟩

theorem execB32dec_cases (a : List Byte) (s : State) :
    (∃ k, decode a = .ok k ∧ execB32dec a s = .next (State.complete k.val { s.latch (.b32dec a) with keyb := k })) ∨
    (decode a = .error .invalidSecretFormat ∧ execB32dec a s = .next ((s.latch (.b32dec a)).raise 0x01)) := by
  cases h : decode a with
  | ok k => exact .inl ⟨k, rfl, by simp [execB32dec, operandA, h]⟩
  | error e =>
    have he := decode_error h
    subst he
    exact .inr ⟨rfl, by simp [execB32dec, operandA, h, commandStatus]⟩

theorem execHmac_cases (key message : List Byte) (s : State) :
    (64 < key.length ∧ execHmac key message s = .next ((s.latch (.hmac key message)).request .waitKeyhash key)) ∨
    (key.length ≤ 64 ∧ execHmac key message s = .next ((s.latch (.hmac key message)).requestInner key message)) := by
  by_cases h : 64 < key.length
  · exact .inl ⟨h, by simp [execHmac, operandA, Config.blockSize, h]⟩
  · exact .inr ⟨by omega, by simp [execHmac, operandA, operandB, Config.blockSize, h]⟩

/-! ### `exec` at the ports -/

/-- Executing touches nothing of the outside; it either leaves the HASH port alone and makes the response due, or sends one
request and waits for its reply (10_state.md R31). -/
theorem exec_ports {i : Instr} {s t : State} (h : exec i s = .next t) :
    t.hexUpper = s.hexUpper ∧ t.rspReady = s.rspReady ∧ t.collaborator = s.collaborator ∧ t.cmdPort = s.cmdPort ∧
    t.resetIn = s.resetIn ∧
    ((t.phase = .respond ∧ t.trace = s.trace ∧ t.hashPort = s.hashPort) ∨
     ∃ m, (t.phase = .waitKeyhash ∨ t.phase = .waitInner) ∧ t.trace = s.trace ++ [.hashReq m] ∧ t.hashPort = some m) := by
  cases i with
  | hex2b a => simp only [exec, execHex2b] at h; split at h <;> (cases h; simp)
  | b2hex a => simp only [exec, execB2hex] at h; cases h; simp
  | b32dec a => simp only [exec, execB32dec] at h; split at h <;> (cases h; simp)
  | hmac k m => simp only [exec, execHmac, State.requestInner] at h; split at h <;> (cases h; simp)
  | ctr t => simp only [exec, execCtr] at h; cases h; simp
  | trunc t => simp only [exec, execTrunc, State.completeCode] at h; cases h; simp
  | derive a n =>
    simp only [exec, execDerive, State.requestInner] at h
    split at h
    · cases h; simp
    · split at h <;> (cases h; simp)
  | secrem t => simp only [exec, execSecrem] at h; cases h; simp

end Sys2Proof.Machine
end

