-- ==== Sys2Proof/Laws/PerInstr.lean ====
section
/-! SUPPORT. Facts of every command as syntax, one lemma per constructor. -/

/-- The total frame lengths of 30_encoding.md R84: `B`: 5 + La, `BB`: 9 + La + Lb, `T`: 9, `D`: 21, `BT`: 13 + La. -/
def Sys2Proof.Laws.EncodedLength.Statement (i : Sys2Proof.Instr) : Prop :=
  (Sys2Proof.encode i).length =
    match i with
    | .hex2b a => 5 + a.length
    | .b2hex a => 5 + a.length
    | .b32dec a => 5 + a.length
    | .hmac key message => 9 + key.length + message.length
    | .ctr _ => 9
    | .trunc _ => 21
    | .derive secret _ => 13 + secret.length
    | .secrem _ => 9

namespace Sys2Proof.Laws.EncodedLength

theorem hex2b (a : List Byte) : Statement (.hex2b a) := by
  simp [Statement, encode, operandFields, blob, length_be]; omega

theorem b2hex (a : List Byte) : Statement (.b2hex a) := by
  simp [Statement, encode, operandFields, blob, length_be]; omega

theorem b32dec (a : List Byte) : Statement (.b32dec a) := by
  simp [Statement, encode, operandFields, blob, length_be]; omega

theorem hmac (key message : List Byte) : Statement (.hmac key message) := by
  simp [Statement, encode, operandFields, blob, length_be]; omega

theorem ctr (t : Word64) : Statement (.ctr t) := by
  simp [Statement, encode, operandFields, length_be]

theorem trunc (d : Digest) : Statement (.trunc d) := by
  simp [Statement, encode, operandFields]

theorem derive (secret : List Byte) (t : Word64) : Statement (.derive secret t) := by
  simp [Statement, encode, operandFields, blob, length_be]; omega

theorem secrem (t : Word64) : Statement (.secrem t) := by
  simp [Statement, encode, operandFields, length_be]

end Sys2Proof.Laws.EncodedLength
end

