-- ==== Sys2Proof/Laws/Runs.lean ====
section
/-! SUPPORT. Laws of runs, of the trace and of reachability: each induction packaged once. -/

namespace Sys2Proof.Machine

theorem runs_zero (s : State) : Runs 0 s s := rfl

/-- One transition, then a run. -/
theorem runs_succ {n : Nat} {s t u : State} (h : step s = .next t) (hr : Runs n t u) : Runs (n + 1) s u := by
  have hc : core.step s = .next t := h
  simp only [Runs, Host.Core.run, hc]
  exact hr

/-- A transition adds a phase to the trail (10_state.md R25). -/
theorem phaseTrail_succ {s t : State} (n : Nat) (h : step s = .next t) :
    phaseTrail (n + 1) s = s.phase :: phaseTrail n t := by
  simp [phaseTrail, h]

@[simp] theorem after_nil (v : PortView) : v.after [] = some v := rfl

/-- A trace is observed event after event. -/
theorem after_append (v : PortView) (es es' : List Event) :
    v.after (es ++ es') = (v.after es).bind fun w => w.after es' := by
  induction es generalizing v with
  | nil => rfl
  | cons e es ih => cases h : v.next e <;> simp [PortView.after, h, ih]

/-- The induction over reachable states: what holds after reset and is kept by transitions and inputs always holds. -/
theorem reachable_induct {P : State → Prop} (h0 : P State.reset)
    (hs : ∀ s t, P s → step s = .next t → P t) (hi : ∀ i s, P s → P (s.input i)) {s : State} (h : Reachable s) : P s := by
  induction h with
  | reset => exact h0
  | step _ hst ih => exact hs _ _ ih hst
  | input i _ ih => exact hi i _ ih

end Sys2Proof.Machine
end

