-- ==== Sys2Proof/Machine/Text.lean ====
section
/-! DEFINITION. The text form of commands and responses (30_encoding.md R100). It is no part of the block: it is how the
spec writes commands. Log 16. -/

namespace Sys2Proof.Machine

/-- An operand as R100 writes it. -/
inductive TextOperand
  /-- A string literal, or `x` and hex digits. -/
  | bytes (b : List Byte)
  /-- A decimal numeral. -/
  | numeral (n : Nat)
  deriving DecidableEq, Repr

def isSpace (c : Byte) : Bool := c == 0x20
def isQuote (c : Byte) : Bool := c == 0x22
def isComma (c : Byte) : Bool := c == 0x2C
def isSemicolon (c : Byte) : Bool := c == 0x3B
def isPrintable (c : Byte) : Bool := decide (0x20 ≤ c.toNat ∧ c.toNat ≤ 0x7E)
def isDecimal (c : Byte) : Bool := decide (0x30 ≤ c.toNat ∧ c.toNat ≤ 0x39)
def isHexDigit (c : Byte) : Bool := (hexval .accept c).isSome

def skipSpaces (r : List Byte) : List Byte := r.dropWhile isSpace

/-- The value of a decimal numeral. -/
def decimalValue (ds : List Byte) : Nat := ds.foldl (fun n d => 10 * n + (d.toNat - 0x30)) 0

/-- A string literal after its opening quote: printable ASCII up to the closing quote. -/
def readString (r : List Byte) : Option (TextOperand × List Byte) :=
  let body := r.takeWhile (fun c => !isQuote c)
  match r.dropWhile (fun c => !isQuote c) with
  | [] => none
  | _ :: rest => if body.all isPrintable then some (.bytes body, rest) else none

/-- The hex digits after an `x`: an even number of them. -/
def readHex (r : List Byte) : Option (TextOperand × List Byte) :=
  match hexToBytes .accept (r.takeWhile isHexDigit) with
  | .ok b => some (.bytes b, r.dropWhile isHexDigit)
  | .error _ => none

/-- One operand and what follows it. -/
def readOperand (r : List Byte) : Option (TextOperand × List Byte) :=
  match skipSpaces r with
  | [] => none
  | c :: r =>
    if isQuote c then readString r
    else if c == 0x78 then readHex r
    else if isDecimal c then
      some (.numeral (decimalValue (c :: r.takeWhile isDecimal)), r.dropWhile isDecimal)
    else none

/-- Whether only spaces and a comment (from `;`) are left of a line. -/
def lineEnds (r : List Byte) : Bool :=
  match skipSpaces r with
  | [] => true
  | c :: _ => isSemicolon c

/-- The one or two operands of a line, separated by a comma. -/
def readOperands (r : List Byte) : Option (List TextOperand) :=
  match readOperand r with
  | none => none
  | some (a, r) =>
    match skipSpaces r with
    | [] => some [a]
    | c :: r' =>
      if isComma c then
        match readOperand r' with
        | none => none
        | some (b, r'') => if lineEnds r'' then some [a, b] else none
      else if isSemicolon c then some [a]
      else none

/-- A `u64` operand. -/
def timeOperand (n : Nat) : Option Word64 := if n < 2 ^ 64 then some (BitVec.ofNat 64 n) else none

/-- The command of a mnemonic (30_encoding.md R85) and its operands. -/
def commandOf (mnemonic : List Byte) (operands : List TextOperand) : Option Instr :=
  match operands with
  | [.bytes a] =>
    if mnemonic = ascii "HEX2B" then some (.hex2b a)
    else if mnemonic = ascii "B2HEX" then some (.b2hex a)
    else if mnemonic = ascii "B32DEC" then some (.b32dec a)
    else if mnemonic = ascii "TRUNC" then if h : a.length = 20 then some (.trunc ⟨a, h⟩) else none
    else none
  | [.numeral n] =>
    if mnemonic = ascii "CTR" then (timeOperand n).map .ctr
    else if mnemonic = ascii "SECREM" then (timeOperand n).map .secrem
    else none
  | [.bytes a, .bytes b] => if mnemonic = ascii "HMAC" then some (.hmac a b) else none
  | [.bytes a, .numeral n] => if mnemonic = ascii "DERIVE" then (timeOperand n).map (.derive a) else none
  | _ => none

/-- The command a line of text denotes (R100), none where it denotes none. -/
def assemble (line : List Byte) : Option Instr :=
  let line := skipSpaces line
  match readOperands (line.dropWhile (fun c => !isSpace c)) with
  | none => none
  | some operands => commandOf (line.takeWhile (fun c => !isSpace c)) operands

/-- The name of an error status (30_encoding.md R90). -/
def statusName (status : Byte) : Option (List Byte) :=
  if status = commandStatus .invalidSecretFormat then some (ascii "InvalidSecretFormat")
  else if status = commandStatus .malformedHex then some (ascii "MalformedHex")
  else if status = frameStatus .illegalCommand then some (ascii "IllegalCommand")
  else if status = frameStatus .malformedFrame then some (ascii "MalformedFrame")
  else none

/-- A response in text (R100): `-> OK <payload>`, the payload in hex digits, or `-> <ErrorName>`. -/
def responseText : Frame → Option (List Byte)
  | [] => none
  | status :: payload =>
    if status = statusOk then some (ascii "-> OK " ++ bytesToHex payload)
    else (statusName status).map (ascii "-> " ++ ·)

end Sys2Proof.Machine
end

