-- ==== Sys2Proof/Tests/Slice0.lean ====
section
/-! SUPPORT. The author's own tests: well-formedness, decoding, one transition of each command on the values of
95_test_vectors.md, and for every statement with hypotheses a witness that meets them. -/

namespace Sys2Proof.Tests

open Sys2Proof.Machine

/-! ### Helpers -/

/-- Status and result of a transition that answers a next state. -/
def result : Outcome → Option (Byte × List Byte)
  | .next t => some (t.err, t.res)
  | .fault _ => none
  | .refused _ => none

/-- The request outstanding after a transition that answers a next state. -/
def requested : Outcome → Option Frame
  | .next t => t.hashPort
  | .fault _ => none
  | .refused _ => none

/-- The state after reset with one frame at the CMD port. -/
def presented (f : Frame) : State := { State.reset with cmdPort := [f] }

/-- A state in a `WAIT_` phase with the oracle's replies to come. -/
def waiting (p : Phase) (op : Byte) (replies : List Digest) : State :=
  { State.reset with phase := p, op := op, hashPort := some [0x6d], collaborator := .oracle replies }

/-- 95_test_vectors.md V45. -/
def digestV45 : Digest :=
  ⟨[0x75, 0xa4, 0x8a, 0x19, 0xd4, 0xcb, 0xe1, 0x00, 0x64, 0x4e, 0x8a, 0xc1, 0x39, 0x7e, 0xea, 0x74, 0x7a, 0x2d, 0x33, 0xab], rfl⟩

/-- The key of V1, the ASCII bytes of `12345678901234567890`. -/
def keyV1 : Digest :=
  ⟨[0x31, 0x32, 0x33, 0x34, 0x35, 0x36, 0x37, 0x38, 0x39, 0x30, 0x31, 0x32, 0x33, 0x34, 0x35, 0x36, 0x37, 0x38, 0x39, 0x30], rfl⟩

def secretV1 : List Byte := ascii "GEZDGNBVGY3TQOJQGEZDGNBVGY3TQOJQ"

/-- The frame `CTR 59000` of 43_totp_deriver.md R181. -/
def frameCtr : Frame := [0x05, 0, 0, 0, 0, 0, 0, 0xe6, 0x78]

/-! ### Well-formedness: every check refuses an ill-formed term (30_encoding.md R92) -/

theorem test_wf_refuses_long_hex2b : (Instr.hex2b (List.replicate 4294967296 0)).wf = false := by
  rw [Instr.wf, blobFits, List.length_replicate]; decide

theorem test_wf_refuses_long_b2hex : (Instr.b2hex (List.replicate 2147483648 0)).wf = false := by
  rw [Instr.wf, List.length_replicate]; decide

theorem test_wf_accepts_longest_b2hex : (Instr.b2hex (List.replicate 2147483647 0)).wf = true := by
  rw [Instr.wf, List.length_replicate]; decide

theorem test_wf_refuses_long_b32dec : (Instr.b32dec (List.replicate 4294967296 0)).wf = false := by
  rw [Instr.wf, blobFits, List.length_replicate]; decide

theorem test_wf_refuses_long_hmac_key : (Instr.hmac (List.replicate 4294967296 0) []).wf = false := by
  rw [Instr.wf, blobFits, List.length_replicate]; decide

theorem test_wf_refuses_long_hmac_message : (Instr.hmac [] (List.replicate 4294967296 0)).wf = false := by
  rw [Instr.wf, blobFits, blobFits, List.length_replicate]; decide

theorem test_wf_accepts_longest_hmac_message : (Instr.hmac [] (List.replicate 4294967295 0)).wf = true := by
  rw [Instr.wf, blobFits, blobFits, List.length_replicate]; decide

theorem test_wf_refuses_long_derive : (Instr.derive (List.replicate 4294967296 0) 0).wf = false := by
  rw [Instr.wf, blobFits, List.length_replicate]; decide

/-! ### Decoding: frames written out from 30_encoding.md R84, R85 -/

/-- V10. -/
theorem test_parse_hex2b :
    parse [0x01, 0, 0, 0, 0x10, 0x30, 0x30, 0x30, 0x30, 0x30, 0x30, 0x30, 0x30, 0x30, 0x30, 0x30, 0x30, 0x30, 0x30, 0x30, 0x31]
      = .ok (.hex2b (ascii "0000000000000001")) := by decide

/-- V19c. -/
theorem test_parse_b2hex : parse [0x02, 0, 0, 0, 3, 0x00, 0xff, 0xab] = .ok (.b2hex [0x00, 0xff, 0xab]) := by decide

/-- V1. -/
theorem test_parse_b32dec :
    parse [0x03, 0, 0, 0, 0x20, 0x47, 0x45, 0x5a, 0x44, 0x47, 0x4e, 0x42, 0x56, 0x47, 0x59, 0x33, 0x54, 0x51, 0x4f, 0x4a, 0x51,
        0x47, 0x45, 0x5a, 0x44, 0x47, 0x4e, 0x42, 0x56, 0x47, 0x59, 0x33, 0x54, 0x51, 0x4f, 0x4a, 0x51]
      = .ok (.b32dec secretV1) := by decide

/-- V21. -/
theorem test_parse_hmac :
    parse ([0x04, 0, 0, 0, 4, 0x4a, 0x65, 0x66, 0x65, 0, 0, 0, 0x1c] ++ ascii "what do ya want for nothing?")
      = .ok (.hmac (ascii "Jefe") (ascii "what do ya want for nothing?")) := by decide

theorem test_parse_ctr : parse frameCtr = .ok (.ctr 59000) := by decide

/-- V45. -/
theorem test_parse_trunc : parse (0x06 :: digestV45.val) = .ok (.trunc digestV45) := by decide

/-- V53, with a short secret. -/
theorem test_parse_derive :
    parse [0x07, 0, 0, 0, 2, 0x41, 0x37, 0x00, 0x00, 0x01, 0x1f, 0x71, 0xfb, 0x04, 0x50]
      = .ok (.derive [0x41, 0x37] 1234567890000) := by decide

theorem test_parse_secrem : parse [0x08, 0, 0, 0, 0, 0, 0, 0xe6, 0x78] = .ok (.secrem 59000) := by decide

/-- V60 to V63. -/
theorem test_parse_reserved :
    parse [] = .error .malformedFrame ∧ parse [0x00] = .error .illegalCommand ∧
    parse [0x09, 0, 0] = .error .illegalCommand ∧ parse [0xff] = .error .illegalCommand := by decide

/-- V64 to V68. -/
theorem test_parse_cut_or_trailing :
    ∀ f ∈ [[0x01], [0x01, 0, 0], [0x01, 0, 0, 0, 4, 0x30, 0x30], [0x05, 0, 0, 0, 0, 0, 0, 0xe6, 0x78, 0],
        [0x05, 0, 0, 0, 0, 0, 0, 0xe6]], parse f = .error .malformedFrame := by decide

/-- V69a to V69d. -/
theorem test_parse_cut_fields :
    ∀ f ∈ [0x06 :: List.replicate 19 0, 0x06 :: List.replicate 21 0, [0x04, 0, 0, 0, 1, 0x6b], [0x07, 0, 0, 0, 0x20] ++ secretV1],
      parse f = .error .malformedFrame := by decide

/-- A row of the opcode table, operand fields zero, is its command. -/
theorem test_table_rows :
    decodeTableWord 8 1 = some (.hex2b []) ∧ decodeTableWord 8 2 = some (.b2hex []) ∧
    decodeTableWord 8 3 = some (.b32dec []) ∧ decodeTableWord 8 4 = some (.hmac [] []) ∧
    decodeTableWord 8 5 = some (.ctr 0) ∧ decodeTableWord 8 6 = some (.trunc (zeroBytes 20)) ∧
    decodeTableWord 8 7 = some (.derive [] 0) ∧ decodeTableWord 8 8 = some (.secrem 0) := by decide

theorem test_table_reserved : decodeTableWord 8 0 = none ∧ decodeTableWord 8 9 = none ∧ decodeTableWord 8 255 = none := by decide

/-- Wider rows: the bytes follow in order, `CTR 59000` as 72 bits. -/
theorem test_table_wide : decodeTableWord 72 0x78e600000000000005 = some (.ctr 59000) := by decide

/-- The next transition runs the placed command. -/
theorem test_placed_command_runs :
    ∀ w ∈ [1, 2, 3, 4, 5, 6, 7, 8],
      (decodeTableWord 8 w).map (fun i => exec i (State.reset.withFetchWord 8 w)) = some (step (State.reset.withFetchWord 8 w)) := by
  intro w h
  fin_cases h <;> rfl

/-! ### One transition of each command, on the values of 95_test_vectors.md -/

/-- V15, V18. -/
theorem test_hex2b :
    result (exec (.hex2b (ascii "deadBEEF")) State.reset) = some (0x00, [0, 0, 0, 4, 0xde, 0xad, 0xbe, 0xef]) ∧
    result (exec (.hex2b (ascii "ff00")) State.reset) = some (0x00, [0, 0, 0, 2, 0xff, 0x00]) := by decide

/-- V12, V13, V17 with upper-case digits rejected. -/
theorem test_hex2b_malformed :
    result (exec (.hex2b (ascii "abc")) State.reset) = some (0x02, []) ∧
    result (exec (.hex2b (ascii "0g")) State.reset) = some (0x02, []) ∧
    result (exec (.hex2b (ascii "AB")) { State.reset with hexUpper := .reject }) = some (0x02, []) := by decide

/-- V19b, V19c. -/
theorem test_b2hex :
    result (exec (.b2hex [0x00, 0xff, 0xab]) State.reset) = some (0x00, [0, 0, 0, 6, 0x30, 0x30, 0x66, 0x66, 0x61, 0x62]) ∧
    result (exec (.b2hex []) State.reset) = some (0x00, [0, 0, 0, 0]) := by decide

/-- V34. -/
theorem test_b32dec :
    result (exec (.b32dec (ascii "ABCDEFGHIJKLMNOPQRSTUVWXYZ234567")) State.reset) =
      some (0x00, [0x00, 0x44, 0x32, 0x14, 0xc7, 0x42, 0x54, 0xb6, 0x35, 0xcf, 0x84, 0x65, 0x3a, 0x56, 0xd7, 0xc6, 0x75, 0xbe, 0x77, 0xdf]) := by
  decide +kernel

/-- V36, V37, V39b. -/
theorem test_b32dec_invalid :
    ∀ a ∈ [[], List.replicate 31 0x41 ++ [0x3d], List.replicate 31 0x41 ++ [0x40], List.replicate 31 0x41 ++ [0xc1]],
      result (exec (.b32dec a) State.reset) = some (0x01, []) := by decide +kernel

/-- V20's first request: 20 bytes `3d`, 44 bytes `36`, the message. -/
theorem test_hmac :
    requested (exec (.hmac (List.replicate 20 0x0b) (ascii "Hi There")) State.reset) =
      some (List.replicate 20 0x3d ++ List.replicate 44 0x36 ++ ascii "Hi There") := by decide

/-- V28a, V28b: a key of 64 bytes is used as it is, one of 65 bytes is sent to be hashed. -/
theorem test_hmac_key_lengths :
    (requested (exec (.hmac (List.replicate 64 1) (ascii "abc")) State.reset)).map List.length = some 67 ∧
    requested (exec (.hmac (List.replicate 65 1) (ascii "abc")) State.reset) = some (List.replicate 65 1) := by decide

/-- V40g, V42. -/
theorem test_ctr :
    result (exec (.ctr 59000) State.reset) = some (0x00, [0, 0, 0, 0, 0, 0, 0, 1]) ∧
    result (exec (.ctr 18446744073709551615) State.reset) = some (0x00, [0x00, 0x02, 0x2f, 0x3d, 0x93, 0x97, 0xb0, 0x43]) := by decide

/-- V45, V44. -/
theorem test_trunc :
    result (exec (.trunc digestV45) State.reset) = some (0x00, [0x00, 0x04, 0x61, 0x6a]) ∧
    result (exec (.trunc ⟨List.replicate 20 0xff, rfl⟩) State.reset) = some (0x00, [0x00, 0x07, 0x61, 0x3f]) := by decide

/-- V48, V46. -/
theorem test_trunc_masks :
    result (exec (.trunc ⟨0x80 :: List.replicate 18 0 ++ [0xf0], rfl⟩) State.reset) = some (0x00, [0, 0, 0, 0]) ∧
    result (exec (.trunc ⟨[0x1f, 0x86, 0x98, 0x69, 0x0e, 0x02, 0xca, 0x16, 0x61, 0x85, 0x50, 0xef, 0x7f, 0x19, 0xda, 0x8e,
      0x94, 0x5b, 0x55, 0x5a], rfl⟩) State.reset) = some (0x00, [0x00, 0x0d, 0x51, 0xd9]) := by decide

/-- V2's first request. -/
theorem test_derive :
    requested (exec (.derive secretV1 59000) State.reset) =
      some ([0x07, 0x04, 0x05, 0x02, 0x03, 0x00, 0x01, 0x0e, 0x0f, 0x06, 0x07, 0x04, 0x05, 0x02, 0x03, 0x00, 0x01, 0x0e, 0x0f, 0x06]
        ++ List.replicate 44 0x36 ++ [0, 0, 0, 0, 0, 0, 0, 1]) := by decide +kernel

/-- V57. -/
theorem test_derive_invalid :
    result (exec (.derive (List.replicate 31 0x41) 0) State.reset) = some (0x01, []) ∧
    requested (exec (.derive (List.replicate 31 0x41) 0) State.reset) = none := by decide +kernel

/-- V40a, V40c, V40d, V42. -/
theorem test_secrem :
    result (exec (.secrem 0) State.reset) = some (0x00, [30]) ∧ result (exec (.secrem 1000) State.reset) = some (0x00, [29]) ∧
    result (exec (.secrem 29000) State.reset) = some (0x00, [1]) ∧
    result (exec (.secrem 18446744073709551615) State.reset) = some (0x00, [9]) := by decide

/-! ### The reference collaborator and the big-step view -/

/-- 44_sha1_collaborator.md R220, the empty message and the one of 56 bytes. -/
theorem test_sha1 :
    (Sha1.sha1 []).val = [0xda, 0x39, 0xa3, 0xee, 0x5e, 0x6b, 0x4b, 0x0d, 0x32, 0x55, 0xbf, 0xef, 0x95, 0x60, 0x18, 0x90, 0xaf, 0xd8, 0x07, 0x09] ∧
    (Sha1.sha1 (ascii "abcdbcdecdefdefgefghfghighijhijkijkljklmklmnlmnomnopnopq")).val =
      [0x84, 0x98, 0x3e, 0x44, 0x1c, 0x3b, 0xd2, 0x6e, 0xba, 0xae, 0x4a, 0xa1, 0xf9, 0x51, 0x29, 0xe5, 0xe5, 0x46, 0x70, 0xf1] := by
  decide +kernel

/-- V25. -/
theorem test_hmac_long_key :
    (hmac Sha1.sha1 (List.replicate 80 0xaa) (ascii "Test Using Larger Than Block-Size Key - Hash Key First")).val =
      [0xaa, 0x4a, 0xe5, 0xe1, 0x52, 0x72, 0xd0, 0x0e, 0x95, 0x70, 0x56, 0x37, 0xce, 0x8a, 0x3b, 0x55, 0xed, 0x40, 0x21, 0x12] := by
  decide +kernel

/-- V5. -/
theorem test_derive_all_zero_key :
    responseTo Sha1.sha1 .accept (.derive (List.replicate 32 0x41) 0) = [0x00, 0x00, 0x05, 0x03, 0x22] := by decide +kernel

/-- The text form (30_encoding.md R100). -/
theorem test_assemble :
    assemble (ascii "HMAC   x0b0b, \"Hi There\" ; a comment") = some (.hmac [0x0b, 0x0b] (ascii "Hi There")) ∧
    assemble (ascii "DERIVE \"AB\", 59000") = some (.derive (ascii "AB") 59000) ∧
    assemble (ascii "B2HEX  x") = some (.b2hex []) ∧ assemble (ascii "CTR 18446744073709551616") = none := by decide +kernel

theorem test_response_text :
    responseText [0x00, 0x00, 0x04, 0x61, 0x6a] = some (ascii "-> OK 0004616a") ∧
    responseText [0x02] = some (ascii "-> MalformedHex") := by decide +kernel

/-! ### Witnesses: states and operands that meet the hypotheses of each statement -/

theorem witness_ParseAndEncodeAreInverse : (Instr.hmac [0x6b] [0x6d, 0x6e]).wf = true ∧ parse frameCtr = .ok (.ctr 59000) := by
  decide

/-- The longest and the shortest opcodes, and the limit of B2HEX met. -/
theorem witness_FrameParsesWhenItsLengthFits :
    ([0x01, 0, 0, 0, 0] : Frame).length = frameLength [0x01, 0, 0, 0, 0] ∧ (0x08 :: List.replicate 8 0 : Frame).length =
      frameLength (0x08 :: List.replicate 8 0) ∧ lengthField [0x02, 0, 0, 0, 0] 1 ≤ 0x7FFFFFFF ∧
    lengthField [0x02, 0x7f, 0xff, 0xff, 0xff] 1 = 0x7FFFFFFF ∧ lengthField [0x02, 0x80, 0, 0, 0] 1 = 0x80000000 := by decide

theorem witness_FrameErrorPriority :
    (∀ op ∈ ([0x00, 0x09, 0xff] : List Byte), (op.toNat = 0 ∨ 9 ≤ op.toNat) ∧ parse [op, 1] = .error .illegalCommand) ∧
    (∀ op ∈ ([0x01, 0x08] : List Byte), 1 ≤ op.toNat ∧ op.toNat ≤ 8 ∧ parse [op] = .error .malformedFrame) := by decide

/-- The ends of each range, and the codes just outside it. -/
theorem witness_HexDigitValues :
    (hexval .reject 0x30 = some 0 ∧ hexval .reject 0x39 = some 9) ∧ (hexval .reject 0x61 = some 10 ∧ hexval .reject 0x66 = some 15) ∧
    (hexval .accept 0x41 = some 10 ∧ hexval .accept 0x46 = some 15 ∧ hexval .reject 0x41 = none) ∧
    ∀ c ∈ ([0x2f, 0x3a, 0x40, 0x47, 0x60, 0x67, 0xff] : List Byte), hexval .accept c = none := by decide

/-- A command, each frame error, and a busy block with a frame at its port. -/
theorem witness_AcceptFollowsTheParse :
    ((presented frameCtr).phase = .idle ∧ (presented frameCtr).resetIn = false ∧ (presented frameCtr).cmdPort = [frameCtr] ∧
      parse frameCtr = .ok (.ctr 59000)) ∧
    ((presented []).phase = .idle ∧ (presented []).resetIn = false ∧ (presented []).cmdPort = [[]] ∧
      parse [] = .error .malformedFrame ∧ (presented [0]).cmdPort = [[0]] ∧ parse [0] = .error .illegalCommand) ∧
    (State.latch (.ctr 59000) (presented [0x09])).phase ≠ .idle ∧
    ∃ t, step (State.latch (.ctr 59000) (presented [0x09])) = .next t := by
  refine ⟨by decide, by decide, by decide, _, rfl⟩

theorem witness_StepRunsTheDecodedCommand :
    let s := State.reset.latch (.trunc digestV45)
    s.resetIn = false ∧ s.phase = .exec ∧ s.latched = some (.trunc digestV45) ∧
    (presented frameCtr).phase = .idle ∧ (presented frameCtr).resetIn = false ∧ (presented frameCtr).cmdPort = [frameCtr] ∧
    parse frameCtr = .ok (.ctr 59000) := by decide

/-- A success, an error and a request. -/
theorem witness_ExecuteWritesOnlyItsRegisters :
    (∃ t, exec (.ctr 59000) State.reset = .next t) ∧
    (∃ t, exec (.hex2b [0x67, 0x67]) State.reset = .next t ∧ t.err ≠ 0 ∧ t.phase = .respond) ∧
    (∃ t, exec (.hmac [] []) State.reset = .next t ∧ t.phase ≠ .respond) :=
  ⟨⟨_, rfl⟩, ⟨_, rfl, by decide, rfl⟩, ⟨_, rfl, by decide⟩⟩

theorem witness_Hex2bConvertsPairsOfDigits :
    ((ascii "fF00").length % 2 = 0 ∧ ∀ c ∈ ascii "fF00", ∃ x, hexval State.reset.hexUpper c = some x) ∧
    (ascii "abc").length % 2 = 1 ∧ ∃ c ∈ ascii "0g", hexval State.reset.hexUpper c = none := by
  refine ⟨⟨by decide, fun c h => Option.isSome_iff_exists.1 ?_⟩, by decide⟩
  revert c; decide

theorem witness_HexCodecRoundTrips :
    hexToBytes .reject (ascii "ff00") = .ok [0xff, 0x00] ∧ (∀ c ∈ ascii "ff00", ¬(0x41 ≤ c.toNat ∧ c.toNat ≤ 0x5A)) ∧
    hexToBytes .accept (ascii "aB") = .ok [0xab] := by decide

theorem witness_B32decConcatenatesFiveBitValues :
    (secretV1.length = 32 ∧ ∀ c ∈ secretV1, ∃ x, b32val (upper c) = some x) ∧
    (List.replicate 31 (0x41 : Byte)).length ≠ 32 ∧ (List.replicate 33 (0x41 : Byte)).length ≠ 32 ∧
    ∃ c ∈ List.replicate 31 (0x41 : Byte) ++ [0x31], b32val (upper c) = none := by
  refine ⟨⟨by decide, fun c h => Option.isSome_iff_exists.1 ?_⟩, by decide⟩
  revert c; decide

theorem witness_DecodeGivesFiveBytesPerGroup : 3 < 4 ∧ decode secretV1 = .ok keyV1 := by decide +kernel

/-- The codes at both ends of the lower-case letters and just outside them, the ends of the symbols, V32. -/
theorem witness_DecodeIgnoresCase :
    (upper 0x60 = 0x60 ∧ upper 0x61 = 0x41 ∧ upper 0x7A = 0x5A ∧ upper 0x7B = 0x7B) ∧
    (b32val (upper 0x61) = some 0 ∧ b32val (upper 0x5A) = some 25 ∧ b32val (upper 0x32) = some 26 ∧
      b32val (upper 0x37) = some 31 ∧ b32val (upper 0x30) = none) ∧
    (ascii "gezdgnbvgy3tqojqgezdgnbvgy3tqojq").map upper = secretV1.map upper := by decide

theorem witness_HmacStartsWithTheInnerRequest : (List.replicate 64 (0 : Byte)).length ≤ 64 ∧ ([] : List Byte).length ≤ 64 := by
  decide

theorem witness_HmacHashesALongKeyFirst : 64 < (List.replicate 65 (0 : Byte)).length := by decide

/-- A reachable state in the phase, and one with a reply to come. -/
theorem witness_KeyHashReplyStartsTheInnerHash :
    (∃ s, Reachable s ∧ s.phase = .waitKeyhash) ∧ let s := waiting .waitKeyhash 0x04 [keyV1]
    s.resetIn = false ∧ s.phase = .waitKeyhash ∧ s.hashPort = some [0x6d] ∧
    s.collaborator.answer [0x6d] = some (keyV1, .oracle []) :=
  ⟨⟨_, .step (.step (.input (.present ([0x04, 0, 0, 0, 65] ++ List.replicate 65 1 ++ [0, 0, 0, 0])) .reset) rfl) rfl, rfl⟩,
    by decide⟩

theorem witness_InnerHashReplyStartsTheOuterHash :
    let s := waiting .waitInner 0x07 [keyV1]
    s.resetIn = false ∧ s.phase = .waitInner ∧ s.hashPort = some [0x6d] ∧
    s.collaborator.answer [0x6d] = some (keyV1, .oracle []) := by decide

theorem witness_OuterHashReplyCompletes :
    ∀ op ∈ ([0x04, 0x07] : List Byte), let s := waiting .waitOuter op [keyV1]
      s.resetIn = false ∧ s.phase = .waitOuter ∧ s.hashPort = some [0x6d] ∧
      s.collaborator.answer [0x6d] = some (keyV1, .oracle []) ∧ s.op = op := by decide

/-- Any frame can be presented to the block after reset, with the reference collaborator. -/
theorem witness_presented (f : Frame) :
    (presented f).Presented f [] ∧ (presented f).collaborator.Computes Sha1.sha1 :=
  ⟨⟨rfl, rfl, rfl, rfl⟩, fun _ => rfl⟩

/-- A short key, a key of 64 bytes and one of 65. -/
theorem witness_HmacCommandRunsToItsResponse :
    parse [0x04, 0, 0, 0, 1, 0x6b, 0, 0, 0, 1, 0x6d] = .ok (.hmac [0x6b] [0x6d]) ∧
    parse ([0x04, 0, 0, 0, 64] ++ List.replicate 64 1 ++ [0, 0, 0, 0]) = .ok (.hmac (List.replicate 64 1) []) ∧
    parse ([0x04, 0, 0, 0, 65] ++ List.replicate 65 1 ++ [0, 0, 0, 0]) = .ok (.hmac (List.replicate 65 1) []) := by decide

theorem witness_KeysWithTheSameBlockKeyAgree :
    64 < (List.replicate 65 (0 : Byte)).length ∧ (List.replicate 63 (0 : Byte)).length < 64 := by decide

theorem witness_CounterIsBoundedAndMonotone : (29999 : Word64).toNat ≤ (30000 : Word64).toNat := by decide

/-- V48's digest and the same with another high nibble. -/
theorem witness_TruncIgnoresTheLastHighNibble :
    let d : Digest := ⟨0x80 :: List.replicate 18 0 ++ [0xf0], rfl⟩
    let d' : Digest := ⟨0x80 :: List.replicate 18 0 ++ [0x00], rfl⟩
    d.val.take 19 = d'.val.take 19 ∧ (d.val.getD 19 0).toNat % 16 = (d'.val.getD 19 0).toNat % 16 ∧ d ≠ d' := by decide

theorem witness_DeriveStartsWithTheInnerRequest : decode secretV1 = .ok keyV1 := by decide +kernel

theorem witness_DeriveFailsFast :
    (List.replicate 31 (0x41 : Byte)).length ≠ 32 ∧ ∃ c ∈ List.replicate 31 (0x41 : Byte) ++ [0x38], b32val (upper c) = none := by
  decide

/-- A valid and an invalid secret; `witness_presented` gives the other hypotheses. -/
theorem witness_DeriveCommandRunsToItsResponse :
    parse ([0x07, 0, 0, 0, 32] ++ secretV1 ++ List.replicate 8 0) = .ok (.derive secretV1 0) ∧ decode secretV1 = .ok keyV1 ∧
    parse ([0x07, 0, 0, 0, 1, 0x41] ++ List.replicate 8 0) = .ok (.derive [0x41] 0) ∧
    decode [0x41] = .error .invalidSecretFormat := by decide +kernel

theorem witness_DeriveIsTheChainOfCommands : decode (List.replicate 32 0x37) = .ok ⟨List.replicate 20 0xff, rfl⟩ := by
  decide +kernel

/-- V56, V59. -/
theorem witness_CodeDependsOnWindowAndFoldedSecret :
    (ascii "gezdgnbvgy3tqojqgezdgnbvgy3tqojq").map upper = secretV1.map upper ∧
    counter (30000 : Word64).toNat = counter (59999 : Word64).toNat := by decide

theorem witness_RespondEmitsAndClears :
    let s := State.reset.complete [1]
    s.resetIn = false ∧ s.phase = .respond ∧ s.rspReady = true := by decide

theorem witness_ResponseWaitsForTheHost :
    let s := State.complete [1] { State.reset with rspReady := false }
    s.resetIn = false ∧ s.phase = .respond ∧ s.rspReady = false := by decide

/-- A frame error of each kind, a success and a command's own error. -/
theorem witness_ResponsesHaveTheirForm :
    (parse [] = .error .malformedFrame ∧ parse [0x09] = .error .illegalCommand) ∧
    parse ([0x01, 0, 0, 0, 4] ++ ascii "ff00") = .ok (.hex2b (ascii "ff00")) ∧
    (respondTo Sha1.sha1 .accept ([0x01, 0, 0, 0, 4] ++ ascii "ff00")).2 = [0x00, 0, 0, 0, 2, 0xff, 0x00] ∧
    parse ([0x01, 0, 0, 0, 3] ++ ascii "abc") = .ok (.hex2b (ascii "abc")) ∧
    (respondTo Sha1.sha1 .accept ([0x01, 0, 0, 0, 3] ++ ascii "abc")).2 = [0x02] := by decide

/-- A state about to respond with success, and one with an error. -/
theorem witness_ErrorsAreToldByTheFrame :
    (State.reset.complete [1]).Inv ∧ (State.reset.complete [1]).phase = .respond ∧ (State.reset.complete [1]).err = 0x00 ∧
    (State.reset.raise 0x81).Inv ∧ (State.reset.raise 0x81).phase = .respond ∧ (State.reset.raise 0x81).err ≠ 0x00 := by
  refine ⟨?_, rfl, rfl, ?_, rfl, by decide⟩ <;> constructor <;> first | decide | (intro h; cases h)

theorem witness_ResetInEveryPhase :
    (∀ p ∈ [Phase.idle, .exec, .waitKeyhash, .waitInner, .waitOuter, .respond],
      ({ State.reset with phase := p, resetIn := true } : State).resetIn = true) ∧
    (presented frameCtr).hashPort = none ∧ ∃ t, step (presented frameCtr) = .next t := ⟨by decide, rfl, _, rfl⟩

/-- Reset in a wait, and a response. -/
theorem witness_RespondAndResetLeaveTheOutside :
    let s := { waiting .waitInner 0x04 [] with resetIn := true, cmdPort := [frameCtr] }
    let s' := State.complete [1] (presented frameCtr)
    s.resetIn = true ∧ (∃ t, step s = .next t) ∧ s'.phase = .respond ∧ ∃ t, step s' = .next t :=
  ⟨rfl, ⟨_, rfl⟩, rfl, ⟨_, rfl⟩⟩

/-- A silent collaborator in each phase; one wait that goes on, one reply, one reset. -/
theorem witness_WaitsEndOnlyByReplyOrReset :
    (∀ p ∈ [Phase.waitKeyhash, .waitInner, .waitOuter], let s := waiting p 0x04 []
      s.resetIn = false ∧ s.phase.waiting = true ∧ s.hashPort = some [0x6d] ∧ s.collaborator.answer [0x6d] = none) ∧
    (∃ t, step (waiting .waitInner 0x04 []) = .next t) ∧
    (waiting .waitInner 0x04 [keyV1]).phase.waiting = true ∧ (∃ t, step (waiting .waitInner 0x04 [keyV1]) = .next t) ∧
    ∃ t, step { waiting .waitInner 0x04 [] with resetIn := true } = .next t :=
  ⟨by decide, ⟨_, rfl⟩, rfl, ⟨_, rfl⟩, ⟨_, rfl⟩⟩

/-- CTR, and DERIVE with an invalid secret; `witness_presented` gives the first hypothesis. -/
theorem witness_CommandsWithoutRequestsNeedNoCollaborator :
    (parse frameCtr = .ok (.ctr 59000) ∧ (∀ k m, Instr.ctr 59000 ≠ .hmac k m) ∧
      ∀ a n k, Instr.ctr 59000 = .derive a n → decode a ≠ .ok k) ∧
    parse ([0x07, 0, 0, 0, 1, 0x41] ++ List.replicate 8 0) = .ok (.derive [0x41] 0) ∧
    (∀ k m, Instr.derive [0x41] 0 ≠ .hmac k m) ∧
    ∀ a n k, Instr.derive [0x41] 0 = .derive a n → decode a ≠ .ok k := by
  refine ⟨⟨by decide, by simp, by simp⟩, by decide, by simp, ?_⟩
  intro a n k h
  cases h
  simp [decode, Config.secretLen]

theorem witness_StepKeepsTheInvariant :
    (presented frameCtr).Inv ∧ ∃ t, step (presented frameCtr) = .next t := by
  refine ⟨?_, _, rfl⟩
  constructor <;> first | decide | exact fun _ => rfl

/-- A reachable state other than reset's: a frame presented and accepted. -/
theorem witness_ReachableStatesMeetTheInvariant :
    Reachable State.reset ∧ ∃ t, step (presented frameCtr) = .next t ∧ Reachable t :=
  ⟨.reset, _, rfl, .step (.input (.present frameCtr) .reset) rfl⟩

theorem witness_BlockNeverStops : (presented frameCtr).Inv := witness_StepKeepsTheInvariant.1

theorem witness_PortsFollowTheProtocol : ∃ t, Reachable t ∧ t.trace = [.cmd frameCtr] :=
  ⟨_, .step (.input (.present frameCtr) .reset) rfl, rfl⟩

theorem witness_StepKeepsTheProtocol :
    (presented frameCtr).TraceOk ∧ ∃ t, step (presented frameCtr) = .next t := ⟨rfl, _, rfl⟩

theorem witness_ParametersNeverChange :
    (∃ t, step (presented frameCtr) = .next t) ∧ Collaborator.function.Computes freeSha1 := ⟨⟨_, rfl⟩, fun _ => rfl⟩

/-- A state with the inner request outstanding and one with the outer. -/
theorem witness_RequestsRevealTheBlockKey :
    let inner := State.requestInner [0x6b] [0x6d] (State.reset.latch (.hmac [0x6b] [0x6d]))
    let outer := State.request .waitOuter (opad (zeroBytes 64) ++ (zeroBytes 20).val) (State.reset.latch (.hmac [] []))
    inner.Inv ∧ inner.phase = .waitInner ∧ outer.Inv ∧ outer.phase = .waitOuter := by
  refine ⟨?_, rfl, ?_, rfl⟩ <;> constructor <;> first | decide | (intro h; cases h)

/-- A request outstanding in each phase. -/
theorem witness_RequestLengths :
    let inner := State.requestInner [0x6b] [0x6d] (State.reset.latch (.hmac [0x6b] [0x6d]))
    let outer := State.request .waitOuter (opad (zeroBytes 64) ++ (zeroBytes 20).val) (State.reset.latch (.hmac [] []))
    let key := State.request .waitKeyhash (List.replicate 65 1) (State.reset.latch (.hmac (List.replicate 65 1) []))
    inner.Inv ∧ inner.hashPort.isSome ∧ inner.phase = .waitInner ∧ outer.Inv ∧ outer.hashPort.isSome ∧
    outer.phase = .waitOuter ∧ key.Inv ∧ key.hashPort.isSome ∧ key.phase = .waitKeyhash := by
  refine ⟨?_, rfl, rfl, ?_, rfl, rfl, ?_, rfl, rfl⟩ <;> constructor <;> first | decide | (intro h; cases h)

/-- A frame of each case of 10_state.md R25; `witness_presented` gives the other hypotheses. -/
theorem witness_PhaseSequences :
    parse [0x00] = .error .illegalCommand ∧ parse frameCtr = .ok (.ctr 59000) ∧
    (∀ k m, Instr.ctr 59000 ≠ .hmac k m) ∧ (∀ a n, Instr.ctr 59000 ≠ .derive a n) ∧
    parse ([0x04, 0, 0, 0, 64] ++ List.replicate 64 1 ++ [0, 0, 0, 0]) = .ok (.hmac (List.replicate 64 1) []) ∧
    parse ([0x04, 0, 0, 0, 65] ++ List.replicate 65 1 ++ [0, 0, 0, 0]) = .ok (.hmac (List.replicate 65 1) []) ∧
    parse ([0x07, 0, 0, 0, 32] ++ secretV1 ++ List.replicate 8 0) = .ok (.derive secretV1 0) ∧ decode secretV1 = .ok keyV1 ∧
    parse ([0x07, 0, 0, 0, 1, 0x41] ++ List.replicate 8 0) = .ok (.derive [0x41] 0) ∧
    decode [0x41] = .error .invalidSecretFormat := by
  refine ⟨by decide, by decide, by simp, by simp, ?_⟩
  decide +kernel

theorem witness_SmallStepAgreesWithBigStep :
    (presented [0x09]).Presented [0x09] [] ∧ (presented [0x09]).collaborator.Computes Sha1.sha1 := witness_presented [0x09]

/-- The state after reset, and one with other values in its registers and another frame after the first. -/
theorem witness_ResponseDependsOnlyOnTheFrame :
    let s := presented frameCtr
    let s' := { waiting .idle 0xff [] with
      cmdPort := [frameCtr, []], collaborator := .fips180, err := 7, dig := keyV1, opa := [1], res := [2], trace := [.reset] }
    s.phase = .idle ∧ s'.phase = .idle ∧ s.resetIn = false ∧ s'.resetIn = false ∧ s.rspReady = true ∧ s'.rspReady = true ∧
    s.cmdPort = frameCtr :: [] ∧ s'.cmdPort = frameCtr :: [[]] ∧ s.hexUpper = s'.hexUpper ∧
    s.collaborator.Computes Sha1.sha1 ∧ s'.collaborator.Computes Sha1.sha1 :=
  ⟨rfl, rfl, rfl, rfl, rfl, rfl, rfl, rfl, rfl, fun _ => rfl, fun _ => rfl⟩

/-- 44_sha1_collaborator.md R214: 55 for the empty message, 0 for 55 bytes, 63 for 56 bytes. -/
theorem witness_Sha1PaddingFillsBlocks :
    (0 + 1 + 55 + 8) % 64 = 0 ∧ Sha1.padZeros 0 = 55 ∧ Sha1.padZeros 55 = 0 ∧ Sha1.padZeros 56 = 63 := by decide

/-- The largest value of 8 bytes, the smallest, no byte at all, and the two ends of a value. -/
theorem witness_BytesAreBigEndian :
    18446744073709551615 < 2 ^ (8 * 8) ∧ 0 < 2 ^ (8 * 0) ∧ be 0x0004616a 4 = [0x00, 0x04, 0x61, 0x6a] ∧
    unbe [0x00, 0x04, 0x61, 0x6a] = 0x0004616a ∧ be 18446744073709551615 8 = List.replicate 8 0xff := by decide

end Sys2Proof.Tests
end

section
/-! PROOFS. R11: `be` and `unbe` byte by byte (00_scope.md). -/

namespace Sys2Proof

/-- Byte `i` of `be v n` (00_scope.md R11). -/
theorem toNat_getD_be (v : Nat) {n i : Nat} (h : i < n) :
    ((be v n).getD i 0).toNat = v >>> (8 * (n - 1 - i)) % 256 := by
  induction n generalizing i with
  | zero => omega
  | succ n ih =>
    cases i with
    | zero => rw [be, List.getD_cons_zero, BitVec.toNat_ofNat, Nat.add_sub_cancel, Nat.sub_zero]
    | succ i =>
      have hi : n + 1 - 1 - (i + 1) = n - 1 - i := by omega
      rw [be, List.getD_cons_succ, ih (by omega), hi]

/-- `unbe` as the weighted sum of the bytes (00_scope.md R11). -/
theorem unbe_eq_sum (b : List Byte) :
    unbe b = ((List.range b.length).map fun i => (b.getD i 0).toNat * 2 ^ (8 * (b.length - 1 - i))).sum := by
  induction b with
  | nil => rfl
  | cons x b ih =>
    rw [unbe_cons, ih, List.length_cons, List.range_succ_eq_map]
    simp [pow_mul, Function.comp_def, Nat.sub_sub, Nat.add_comm 1]

/-- Settles O60: the length and the inverse are the laws of `be`, each byte and the sum by induction. -/
theorem bytesAreBigEndian : Obligations.BytesAreBigEndian := by
  refine ⟨fun v n hv => ⟨length_be v n, fun i hi => toNat_getD_be v hi, unbe_be_of_lt ?_⟩,
    fun b => ⟨be_unbe b, unbe_eq_sum b⟩⟩
  simpa [pow_mul] using hv

end Sys2Proof
end

section
/-! PROOFS. No transition changes the parameters of 00_scope.md R8. -/

namespace Sys2Proof.Machine

/-- `t` has the parameters of R8 and the host's readiness of `s`. -/
def State.SameParameters (s t : State) : Prop :=
  t.hexUpper = s.hexUpper ∧ t.rspReady = s.rspReady ∧ t.collaborator = s.collaborator

theorem accept_sameParameters (s : State) : s.SameParameters s.accept := by
  obtain ⟨-, h⟩ | ⟨f, rest, -, ⟨e, -, h⟩ | ⟨i, -, h⟩⟩ := accept_cases s <;> rw [h] <;> exact ⟨rfl, rfl, rfl⟩

theorem respond_sameParameters (s : State) : s.SameParameters s.respond := by
  obtain ⟨-, h⟩ | ⟨-, h⟩ := respond_cases s <;> rw [h] <;> exact ⟨rfl, rfl, rfl⟩

theorem onKeyHash_sameParameters {r : Digest} {s t : State} (h : onKeyHash r s = .next t) : s.SameParameters t := by
  cases h; exact ⟨rfl, rfl, rfl⟩

theorem onInnerHash_sameParameters {r : Digest} {s t : State} (h : onInnerHash r s = .next t) :
    s.SameParameters t := by
  cases h; exact ⟨rfl, rfl, rfl⟩

theorem onOuterHash_sameParameters {r : Digest} {s t : State} (h : onOuterHash r s = .next t) :
    s.SameParameters t := by
  obtain ⟨-, he⟩ | ⟨-, he⟩ | ⟨-, -, he⟩ := onOuterHash_cases r s <;> rw [he] at h <;> cases h
  · exact ⟨rfl, rfl, rfl⟩
  · exact ⟨rfl, rfl, rfl⟩

/-- A collaborator that is a function stays itself when it answers (44_sha1_collaborator.md R210). -/
theorem Collaborator.Computes.eq_of_answer {c c' : Collaborator} {sha1 : Frame → Digest} (hc : c.Computes sha1)
    {m : Frame} {r : Digest} (h : c.answer m = some (r, c')) : c' = c := by
  obtain ⟨-, hcc⟩ : sha1 m = r ∧ c = c' := by simpa [hc m] using h
  exact hcc.symm

/-- What a transition keeps of the parameters: a reply may use up an oracle, but not a function (20_memory.md R59). -/
def State.KeepsParameters (s t : State) : Prop :=
  t.hexUpper = s.hexUpper ∧ t.rspReady = s.rspReady ∧
    ∀ sha1, s.collaborator.Computes sha1 → t.collaborator = s.collaborator

theorem State.SameParameters.keeps {s t : State} (h : s.SameParameters t) : s.KeepsParameters t := by
  obtain ⟨hu, hy, hc⟩ := h
  exact ⟨hu, hy, fun _ _ => hc⟩

/-- Waiting keeps the parameters where the transition on the reply leaves them the same. -/
theorem awaitReply_keepsParameters {k : Digest → State → Outcome}
    (hk : ∀ {r s t}, k r s = .next t → s.SameParameters t) {s t : State} (h : awaitReply k s = .next t) :
    s.KeepsParameters t := by
  obtain hs | ⟨m, r, c, -, ha, hr⟩ := awaitReply_cases k s
  · cases hs.symm.trans h
    exact ⟨rfl, rfl, fun _ _ => rfl⟩
  · obtain ⟨hu, hy, hc⟩ := hk (hr.symm.trans h)
    exact ⟨hu, hy, fun _ hf => hc.trans (hf.eq_of_answer ha)⟩

/-- One case for each rule of 10_state.md section 7. -/
theorem step_keepsParameters {s t : State} (h : step s = .next t) : s.KeepsParameters t := by
  obtain ⟨-, hs⟩ | ⟨-, ⟨-, hs⟩ | ⟨-, i, -, hs⟩ | ⟨-, -, hs⟩ | ⟨-, hs⟩ | ⟨-, hs⟩ | ⟨-, hs⟩ | ⟨-, hs⟩⟩ := step_cases s <;>
    rw [hs] at h
  · cases h
    exact ⟨rfl, rfl, fun _ _ => rfl⟩
  · cases h
    exact (accept_sameParameters s).keeps
  · obtain ⟨hu, hy, hc, -⟩ := exec_ports h
    exact ⟨hu, hy, fun _ _ => hc⟩
  · cases h
  · exact awaitReply_keepsParameters onKeyHash_sameParameters h
  · exact awaitReply_keepsParameters onInnerHash_sameParameters h
  · exact awaitReply_keepsParameters onOuterHash_sameParameters h
  · cases h
    exact (respond_sameParameters s).keeps

/-- Settles O51: only the reply touches the collaborator, and a function answers as itself. -/
theorem parametersNeverChange : Obligations.ParametersNeverChange :=
  fun _ _ h => step_keepsParameters h

end Sys2Proof.Machine
end

section
/-! PROOFS. What a command does from its execute transition to its response, against a host that takes responses and a
collaborator that is a function (10_state.md R31 to R35). -/

namespace Sys2Proof.Machine

/-! ### The counter through its hex digits (43_totp_deriver.md R182) -/

/-- Bytes survive the detour through hex digits, under either value of `HEX_UPPER` (40_hex_codec.md R127). -/
theorem hexToBytes_bytesToHex (u : Config.HexUpper) (b : List Byte) : hexToBytes u (bytesToHex b) = .ok b := by
  induction b with
  | nil => rfl
  | cons x b ih =>
    obtain ⟨hhigh, hlow, hx⟩ := nibbles x
    simp only [bytesToHex, hexToBytes, hexval_hexdigit u _ hhigh, hexval_hexdigit u _ hlow, ih, hx]

/-- The HMAC message of DERIVE is the counter's 8 bytes (43_totp_deriver.md R192). -/
theorem counterBytes_eq (u : Config.HexUpper) (t : Word64) : counterBytes u t = .ok (be (counter t.toNat) 8) :=
  hexToBytes_bytesToHex u _

/-- The registers of a DERIVE with the valid secret that decodes to `k`, when its inner request goes out
(43_totp_deriver.md R191). -/
def State.deriving (secret : List Byte) (t : Word64) (k : Digest) (s : State) : State :=
  { s.latch (.derive secret t) with
    keyb := k, cnt := BitVec.ofNat 64 (counter t.toNat),
    chex := padRight 16 (bytesToHex (be (counter t.toNat) 8)), cbytes := beBytes 8 (counter t.toNat) }

/-- What DERIVE can do (43_totp_deriver.md R191, R194). -/
theorem execDerive_cases (secret : List Byte) (t : Word64) (s : State) :
    (∃ k, decode secret = .ok k ∧
      execDerive secret t s = .next ((s.deriving secret t k).requestInner k.val (be (counter t.toNat) 8))) ∨
    (decode secret = .error .invalidSecretFormat ∧
      execDerive secret t s = .next ((s.latch (.derive secret t)).raise 0x01)) := by
  cases h : decode secret with
  | ok k =>
    have hx : (padRight 16 (bytesToHex (be (counter t.toNat) 8))).val = bytesToHex (be (counter t.toNat) 8) :=
      val_padRight_full (by simp [length_be])
    have hc : padRight 8 (be (counter t.toNat) 8) = beBytes 8 (counter t.toNat) :=
      Subtype.ext (val_padRight_full (length_be _ _))
    refine .inl ⟨k, rfl, ?_⟩
    simp [execDerive, State.deriving, operandA, operandT, h, toNat_counter, Config.ctrBytes, hx,
      hexToBytes_bytesToHex, hc, -BitVec.toNat_ofNat]
  | error e =>
    have he := decode_error h
    subst he
    exact .inr ⟨rfl, by simp [execDerive, operandA, h, commandStatus]⟩

/-! ### The block key (42_hmac_engine.md R160) -/

theorem blockKey_of_short (sha1 : Frame → Digest) {key : List Byte} (h : key.length ≤ 64) :
    blockKey sha1 key = padRight 64 key :=
  if_neg (Nat.not_lt.mpr h)

/-- A key longer than 64 bytes has the block key of its hash (42_hmac_engine.md R163 item 5). -/
theorem blockKey_of_long (sha1 : Frame → Digest) {key : List Byte} (h : 64 < key.length) :
    blockKey sha1 key = blockKey sha1 (sha1 key).val := by
  rw [blockKey_of_short sha1 (key := (sha1 key).val) (by rw [length_bytes]; decide)]
  exact if_pos h

theorem hmac_of_long (sha1 : Frame → Digest) {key : List Byte} (message : List Byte) (h : 64 < key.length) :
    hmac sha1 key message = hmac sha1 (sha1 key).val message := by
  simp only [hmac, innerHash, blockKey_of_long sha1 h]

/-- It is hashed first; the other requests are those for its hash (20_memory.md R57). -/
theorem hmacRequests_of_long (sha1 : Frame → Digest) {key : List Byte} (message : List Byte) (h : 64 < key.length) :
    hmacRequests sha1 key message = key :: hmacRequests sha1 (sha1 key).val message := by
  simp [hmacRequests, innerHash, blockKey_of_long sha1 h, Config.blockSize, h]

/-! ### Runs to the response -/

/-- The outside lets `s` go on: no reset, the host takes responses, the collaborator answers `m` with `sha1 m`
(70_reset_and_hazards.md R288). -/
structure State.Served (s : State) (sha1 : Frame → Digest) : Prop where
  no_reset : s.resetIn = false
  ready : s.rspReady = true
  computes : s.collaborator.Computes sha1

/-- `t` differs from `s` in no more than what the block owns and the events `es`, which have happened since. -/
def State.Emits (s : State) (es : List Event) (t : State) : Prop :=
  t.cleared = { s.cleared with trace := s.trace ++ es }

/-- The idle state after `s`, once the events `es` and the response `g` have happened (10_state.md R35). -/
def State.finished (es : List Event) (g : Frame) (s : State) : State :=
  { s.cleared with trace := s.trace ++ es ++ [.rsp g] }

section
variable {s t : State} {sha1 : Frame → Digest} {es es' : List Event} {g m : Frame} {n : Nat}

theorem emits_nil (h : t.cleared = s.cleared) : s.Emits [] t := by
  rw [State.Emits, h, List.append_nil]
  rfl

theorem State.Emits.served (h : s.Emits es t) (hs : s.Served sha1) : t.Served sha1 where
  no_reset := (congrArg State.resetIn h).trans hs.no_reset
  ready := (congrArg State.rspReady h).trans hs.ready
  computes := by
    have hc : t.cleared.collaborator = _ := congrArg State.collaborator h
    exact hc ▸ hs.computes

theorem State.Emits.finished_eq (h : s.Emits es t) : t.finished es' g = s.finished (es ++ es') g := by
  have ht : t.trace = s.trace ++ es := congrArg State.trace h
  rw [State.finished, State.finished, h, ht, List.append_assoc s.trace]

/-- One transition that emits `es`, then the rest of the command. -/
theorem runs_finished_of_step (hst : step s = .next t) (he : s.Emits es t) (hr : Runs n t (t.finished es' g)) :
    Runs (n + 1) s (s.finished (es ++ es') g) :=
  runs_succ hst (he.finished_eq ▸ hr)

/-- The response goes out (10_state.md R35). -/
theorem runs_respond (hs : s.Served sha1) (hp : s.phase = .respond) : Runs 1 s (s.finished [] s.response) := by
  refine runs_succ (t := s.respond) (by simp [step, hs.no_reset, hp]) ?_
  simp [State.respond, State.finished, hs.ready, runs_zero]

@[simp] theorem response_complete (p : List Byte) (s : State) : (s.complete p).response = okFrame p := if_pos rfl

/-- An error response is its status byte alone (60_exceptions.md R245). -/
theorem response_raise {e : Byte} (hne : e ≠ statusOk) (s : State) : (s.raise e).response = errorFrame e := if_neg hne

/-- A transition that completes the command, then the response (10_state.md R31, R34). -/
theorem runs_of_step_complete {p : List Byte} (hs : s.Served sha1) (hst : step s = .next (t.complete p))
    (he : s.Emits es t) : Runs 2 s (s.finished es (okFrame p)) := by
  have hr := runs_respond (he.served (t := t.complete p) hs) rfl
  simpa using runs_finished_of_step hst he hr

/-- A transition that raises an error, then the response (60_exceptions.md R244, R245). -/
theorem runs_of_step_raise {e : Byte} (hs : s.Served sha1) (hst : step s = .next (t.raise e)) (hne : e ≠ statusOk)
    (he : s.Emits es t) : Runs 2 s (s.finished es (errorFrame e)) := by
  have hr := runs_respond (he.served (t := t.raise e) hs) rfl
  simpa [response_raise hne] using runs_finished_of_step hst he hr

/-- In a `WAIT_` phase the reply of the function `sha1` is taken, and the transition `k` happens (20_memory.md R56). -/
theorem step_of_awaitReply {k : Digest → State → Outcome} (hs : s.Served sha1) (hm : s.hashPort = some m)
    (hst : step s = awaitReply k s) : step s = k (sha1 m) (s.reply (sha1 m) s.collaborator) :=
  hst.trans (awaitReply_of_answer hm (hs.computes m))

/-- The success response of the command whose opcode is `op` to its outer digest: the digest for HMAC, its code for DERIVE
(10_state.md R34). -/
def outerResponse (op : Byte) (d : Digest) : Frame :=
  okFrame (if op = 0x07 then be (truncate d).2.2.toNat 4 else d.val)

/-- From WAIT_OUTER: the reply, the response (10_state.md R34). -/
theorem runs_waitOuter (hs : s.Served sha1) (hp : s.phase = .waitOuter) (hm : s.hashPort = some m)
    (hop : s.op = 0x04 ∨ s.op = 0x07) :
    Runs 2 s (s.finished [.hashReply (sha1 m)] (outerResponse s.op (sha1 m))) := by
  have hst : step s = onOuterHash (sha1 m) (s.reply (sha1 m) s.collaborator) :=
    step_of_awaitReply hs hm (by simp [step, hs.no_reset, hp])
  obtain hop | hop := hop
  · have hk : step s = .next (State.complete (sha1 m).val { s.reply (sha1 m) s.collaborator with dig := sha1 m }) := by
      simp [hst, onOuterHash, hop]
    simpa [outerResponse, hop] using runs_of_step_complete hs hk rfl
  · have hk : step s = .next { s.reply (sha1 m) s.collaborator with dig := sha1 m }.completeCode := by
      simp [hst, onOuterHash, hop]
    simpa [outerResponse, hop] using runs_of_step_complete hs hk rfl

/-- From WAIT_INNER: the reply, the outer request `o`, its reply, the response (10_state.md R33, R34). -/
theorem runs_waitInner {o : Frame} (hs : s.Served sha1) (hp : s.phase = .waitInner) (hm : s.hashPort = some m)
    (hop : s.op = 0x04 ∨ s.op = 0x07) (ho : o = opad s.kblk ++ (sha1 m).val) :
    Runs 3 s (s.finished [.hashReply (sha1 m), .hashReq o, .hashReply (sha1 o)] (outerResponse s.op (sha1 o))) := by
  have hst : step s = onInnerHash (sha1 m) (s.reply (sha1 m) s.collaborator) :=
    step_of_awaitReply hs hm (by simp [step, hs.no_reset, hp])
  have he : s.Emits [.hashReply (sha1 m), .hashReq o]
      (State.request .waitOuter o { s.reply (sha1 m) s.collaborator with ihash := sha1 m }) := by
    simp [State.Emits, State.cleared]
  subst ho
  exact runs_finished_of_step hst he (runs_waitOuter (he.served hs) rfl rfl hop)

/-- From the inner request on: it, the outer request, the response (10_state.md R32 to R34). -/
theorem runs_requestInner (k message : List Byte) (hs : s.Served sha1) (hop : s.op = 0x04 ∨ s.op = 0x07) :
    let inner := ipad (padRight 64 k) ++ message
    let outer := opad (padRight 64 k) ++ (sha1 inner).val
    Runs 3 (s.requestInner k message)
      (s.finished (hashEvents sha1 [inner, outer]) (outerResponse s.op (sha1 outer))) := by
  intro inner outer
  have he : s.Emits [.hashReq inner] (s.requestInner k message) := rfl
  have hr := runs_waitInner (o := outer) (he.served hs) rfl rfl hop rfl
  exact he.finished_eq ▸ hr

/-- The same in the terms of `hmac`, for a key that needs no hashing (42_hmac_engine.md R160). -/
theorem runs_requestInner_of_short {key : List Byte} (message : List Byte) (hk : key.length ≤ 64) (hs : s.Served sha1)
    (hop : s.op = 0x04 ∨ s.op = 0x07) :
    Runs 3 (s.requestInner key message)
      (s.finished (hashEvents sha1 (hmacRequests sha1 key message)) (outerResponse s.op (hmac sha1 key message))) := by
  have hn : ¬Config.blockSize < key.length := Nat.not_lt.mpr hk
  simpa [hmacRequests, hmac, innerHash, blockKey_of_short sha1 hk, hn] using runs_requestInner key message hs hop

/-- From WAIT_KEYHASH: the reply, the inner and the outer request, the response (10_state.md R32 to R34). -/
theorem runs_waitKeyhash (hs : s.Served sha1) (hp : s.phase = .waitKeyhash) (hm : s.hashPort = some m)
    (hop : s.op = 0x04) :
    Runs 4 s (s.finished (.hashReply (sha1 m) :: hashEvents sha1 (hmacRequests sha1 (sha1 m).val s.opb))
      (okFrame (hmac sha1 (sha1 m).val s.opb).val)) := by
  have hst : step s = onKeyHash (sha1 m) (s.reply (sha1 m) s.collaborator) :=
    step_of_awaitReply hs hm (by simp [step, hs.no_reset, hp])
  have he : s.Emits [.hashReply (sha1 m)] (s.reply (sha1 m) s.collaborator) := rfl
  have hr := runs_requestInner_of_short (key := (sha1 m).val) s.opb (by simp) (he.served hs) (.inl hop)
  rw [he.finished_eq, reply_op, hop] at hr
  exact runs_succ hst hr

/-! ### Runs from the execute transition -/

/-- HMAC from its execute transition on (42_hmac_engine.md R161). -/
theorem runs_execHmac {key message : List Byte} (hs : s.Served sha1) (hst : step s = execHmac key message s) :
    Runs (if 64 < key.length then 5 else 4) s
      (s.finished (hashEvents sha1 (hmacRequests sha1 key message)) (okFrame (hmac sha1 key message).val)) := by
  obtain ⟨hk, hx⟩ | ⟨hk, hx⟩ := execHmac_cases key message s
  · have he : s.Emits [.hashReq key] ((s.latch (.hmac key message)).request .waitKeyhash key) := rfl
    rw [if_pos hk, hmacRequests_of_long sha1 message hk, hmac_of_long sha1 message hk]
    exact runs_finished_of_step (es := [.hashReq key]) (hst.trans hx) he (runs_waitKeyhash (he.served hs) rfl rfl rfl)
  · have he : s.Emits [] (s.latch (.hmac key message)) := emits_nil rfl
    rw [if_neg (Nat.not_lt.mpr hk)]
    exact runs_succ (hst.trans hx) (he.finished_eq ▸ runs_requestInner_of_short message hk (he.served hs) (.inl rfl))

/-- DERIVE from its execute transition on (43_totp_deriver.md R191). -/
theorem runs_execDerive {secret : List Byte} {t : Word64} (hs : s.Served sha1) (hst : step s = execDerive secret t s) :
    Runs (if (decode secret).isOk then 4 else 2) s
      (s.finished (hashEvents sha1 (requestsOf sha1 s.hexUpper (.derive secret t)))
        (responseTo sha1 s.hexUpper (.derive secret t))) := by
  obtain ⟨k, hk, hx⟩ | ⟨hk, hx⟩ := execDerive_cases secret t s
  · have he : s.Emits [] (s.deriving secret t k) := emits_nil rfl
    have hr := runs_requestInner_of_short (key := k.val) (be (counter t.toNat) 8) (by simp) (he.served hs) (.inr rfl)
    rw [he.finished_eq] at hr
    simp only [requestsOf, deriveRequests, responseTo, deriveCode, hk, counterBytes_eq]
    exact runs_succ (hst.trans hx) hr
  · simp only [requestsOf, deriveRequests, responseTo, deriveCode, hk]
    exact runs_of_step_raise hs (hst.trans hx) (by decide) (emits_nil rfl)

/-- The transitions of a command from its execute transition on (10_state.md R25). -/
def execTransitions : Instr → Nat
  | .hmac key _ => if 64 < key.length then 5 else 4
  | .derive secret _ => if (decode secret).isOk then 4 else 2
  | .hex2b _ => 2
  | .b2hex _ => 2
  | .b32dec _ => 2
  | .ctr _ => 2
  | .trunc _ => 2
  | .secrem _ => 2

/-- Every command from its execute transition on, one case per arm of `exec` (10_state.md R31). -/
theorem runs_exec {i : Instr} (hs : s.Served sha1) (hst : step s = exec i s) :
    Runs (execTransitions i) s
      (s.finished (hashEvents sha1 (requestsOf sha1 s.hexUpper i)) (responseTo sha1 s.hexUpper i)) := by
  cases i with
  | hex2b a =>
    obtain ⟨b, hb, hx⟩ | ⟨hb, hx⟩ := execHex2b_cases a s <;> simp only [responseTo, hb]
    · exact runs_of_step_complete hs (hst.trans hx) (emits_nil rfl)
    · exact runs_of_step_raise hs (hst.trans hx) (by decide) (emits_nil rfl)
  | b2hex a => exact runs_of_step_complete hs hst (emits_nil rfl)
  | b32dec a =>
    obtain ⟨k, hk, hx⟩ | ⟨hk, hx⟩ := execB32dec_cases a s <;> simp only [responseTo, hk]
    · exact runs_of_step_complete hs (hst.trans hx) (emits_nil rfl)
    · exact runs_of_step_raise hs (hst.trans hx) (by decide) (emits_nil rfl)
  | hmac key message => exact runs_execHmac hs hst
  | ctr t =>
    have hr := runs_of_step_complete hs hst (emits_nil rfl)
    simp only [latch_now, operandT, toNat_counter] at hr
    exact hr
  | trunc d => exact runs_of_step_complete hs hst (emits_nil rfl)
  | derive secret t => exact runs_execDerive hs hst
  | secrem t => exact runs_of_step_complete hs hst (emits_nil rfl)

end

end Sys2Proof.Machine
end

section
/-! PROOFS. A frame from its acceptance to its response, and what rests on it (00_scope.md R15, R18). -/

namespace Sys2Proof.Machine

/-- The transitions of a frame from its acceptance on (10_state.md R25). -/
def frameTransitions (f : Frame) : Nat :=
  match parse f with
  | .error _ => 2
  | .ok i => execTransitions i + 1

theorem execTransitions_le (i : Instr) : execTransitions i ≤ 5 := by
  cases i with
  | hmac key message => rw [execTransitions]; split <;> decide
  | derive secret t => rw [execTransitions]; split <;> decide
  | hex2b | b2hex | b32dec | ctr | trunc | secrem => exact (by decide : 2 ≤ 5)

/-- Every frame is answered after at most 6 transitions (70_reset_and_hazards.md R288). -/
theorem frameTransitions_le (f : Frame) : frameTransitions f ≤ 6 := by
  unfold frameTransitions
  split
  · decide
  · exact Nat.succ_le_succ (execTransitions_le _)

/-- A command just latched is executed next (10_state.md R30, R31). -/
theorem step_latch (i : Instr) {s : State} (hn : s.resetIn = false) : step (s.latch i) = exec i (s.latch i) := by
  simp [step, hn]

/-- A presented frame is answered as the big-step view says, whatever the registers held before (00_scope.md R15, R18). -/
theorem runs_frame {s : State} {f : Frame} {rest : List Frame} {sha1 : Frame → Digest} (hs : s.Served sha1)
    (hp : s.phase = .idle) (hf : s.cmdPort = f :: rest) :
    Runs (frameTransitions f) s
      (s.cleared.answered sha1 f rest (respondTo sha1 s.hexUpper f).1 (respondTo sha1 s.hexUpper f).2) := by
  let taken : State := { s with cmdPort := rest, trace := s.trace ++ [.cmd f] }
  have hst : step s = .next (State.load f taken) := by simp [step, hs.no_reset, hp, State.accept, hf, taken]
  have ht : taken.Served sha1 := ⟨hs.no_reset, hs.ready, hs.computes⟩
  cases h : parse f with
  | error e =>
    have he : taken.Emits [] (taken.raise (frameStatus e)) := emits_nil rfl
    have hne : frameStatus e ≠ statusOk := by cases e <;> decide
    rw [load_of_error h] at hst
    simp only [frameTransitions, respondTo, h]
    exact runs_succ hst (response_raise hne taken ▸ runs_respond (he.served ht) rfl)
  | ok i =>
    have he : taken.Emits [] (taken.latch i) := emits_nil rfl
    rw [load_of_ok h] at hst
    simp only [frameTransitions, respondTo, h]
    exact runs_succ hst (runs_exec (he.served ht) (step_latch i ht.no_reset))

/-- Settles O55: `runs_frame` from an idle state, which clearing leaves as it is. -/
theorem smallStepAgreesWithBigStep : Obligations.SmallStepAgreesWithBigStep := by
  intro s f rest sha1 hs hc
  have hi : s.cleared = s := hs.idle
  have hr := runs_frame ⟨hs.no_reset, hs.ready, hc⟩ (congrArg State.phase hi).symm hs.port
  rw [hi] at hr
  exact ⟨frameTransitions f, frameTransitions_le f, hr⟩

/-- Settles O56: by `runs_frame` both runs end, after as many transitions, in the answer of the big-step view, which does
not look at the registers. -/
theorem responseDependsOnlyOnTheFrame : Obligations.ResponseDependsOnlyOnTheFrame := by
  intro s s' f rest rest' sha1 hp hp' hn hn' hy hy' hf hf' hu hc hc'
  have hr := runs_frame ⟨hn, hy, hc⟩ hp hf
  have hr' := runs_frame ⟨hn', hy', hc'⟩ hp' hf'
  rw [← hu] at hr'
  refine ⟨_, _, _, .cmd f :: hashEvents sha1 (respondTo sha1 s.hexUpper f).1, (respondTo sha1 s.hexUpper f).2,
    hr, hr', ?_, ?_, rfl, rfl⟩
  · simp [State.answered]
  · simp [State.answered]

end Sys2Proof.Machine
end

section
/-! PROOFS. A frame that parses is a command whose fields are in range (30_encoding.md R88, R92). -/

namespace Sys2Proof

/-- What format `B` reads (30_encoding.md R84). -/
theorem parseB_ok {mk : List Byte → Instr} {r : List Byte} {i : Instr} (h : parseB mk r = .ok i) :
    ∃ a, i = mk a ∧ r = blob a ∧ a.length < 2 ^ 32 := by
  unfold parseB at h
  split at h
  · cases h
  · next a r' ha =>
    obtain ⟨rfl, rfl⟩ := endFrame_ok h
    obtain ⟨hr, hl⟩ := takeBlob_ok ha
    exact ⟨a, rfl, by simpa using hr, hl⟩

/-- What B2HEX reads: format `B` with the limit of 40_hex_codec.md R128. -/
theorem parseB2hex_ok {r : List Byte} {i : Instr} (h : parseB2hex r = .ok i) :
    ∃ a, i = .b2hex a ∧ r = blob a ∧ a.length ≤ 0x7FFFFFFF := by
  unfold parseB2hex at h
  split at h
  · cases h
  · next a r' ha =>
    split at h
    · cases h
    · next hmax =>
      obtain ⟨rfl, rfl⟩ := endFrame_ok h
      obtain ⟨hr, -⟩ := takeBlob_ok ha
      exact ⟨a, rfl, by simpa using hr, Nat.not_lt.mp hmax⟩

/-- What format `BB` reads (30_encoding.md R84). -/
theorem parseBB_ok {mk : List Byte → List Byte → Instr} {r : List Byte} {i : Instr} (h : parseBB mk r = .ok i) :
    ∃ a b, i = mk a b ∧ r = blob a ++ blob b ∧ a.length < 2 ^ 32 ∧ b.length < 2 ^ 32 := by
  unfold parseBB at h
  split at h
  · cases h
  · next a r' ha =>
    obtain ⟨b, rfl, rfl, hb⟩ := parseB_ok (mk := mk a) h
    obtain ⟨hr, hl⟩ := takeBlob_ok ha
    exact ⟨a, b, rfl, hr, hl, hb⟩

/-- What format `T` reads (30_encoding.md R84). -/
theorem parseT_ok {mk : Word64 → Instr} {r : List Byte} {i : Instr} (h : parseT mk r = .ok i) :
    ∃ t, i = mk t ∧ r = be t.toNat 8 := by
  unfold parseT at h
  split at h
  · cases h
  · next t r' ht =>
    obtain ⟨rfl, rfl⟩ := endFrame_ok h
    exact ⟨_, rfl, by rw [takeFixed_ok ht, be_timeOf, List.append_nil]⟩

/-- What format `D` reads (30_encoding.md R84). -/
theorem parseD_ok {mk : Digest → Instr} {r : List Byte} {i : Instr} (h : parseD mk r = .ok i) :
    ∃ d, i = mk d ∧ r = d.val := by
  unfold parseD at h
  split at h
  · cases h
  · next d r' hd =>
    obtain ⟨rfl, rfl⟩ := endFrame_ok h
    exact ⟨d, rfl, by rw [takeFixed_ok hd, List.append_nil]⟩

/-- What format `BT` reads (30_encoding.md R84). -/
theorem parseBT_ok {mk : List Byte → Word64 → Instr} {r : List Byte} {i : Instr} (h : parseBT mk r = .ok i) :
    ∃ a t, i = mk a t ∧ r = blob a ++ be t.toNat 8 ∧ a.length < 2 ^ 32 := by
  unfold parseBT at h
  split at h
  · cases h
  · next a r' ha =>
    obtain ⟨t, rfl, rfl⟩ := parseT_ok (mk := mk a) h
    obtain ⟨hr, hl⟩ := takeBlob_ok ha
    exact ⟨a, t, rfl, hr, hl⟩

/-- The fields of a command that was read are in range, one case for each opcode (30_encoding.md R88, R92). -/
theorem wf_of_parse {f : Frame} {i : Instr} (h : parse f = .ok i) : i.wf = true := by
  unfold parse at h
  split at h
  · cases h
  · split at h
    · obtain ⟨a, rfl, -, ha⟩ := parseB_ok h
      exact (blobFits_iff a).2 ha
    · obtain ⟨a, rfl, -, ha⟩ := parseB2hex_ok h
      exact (wf_b2hex_iff a).2 ha
    · obtain ⟨a, rfl, -, ha⟩ := parseB_ok h
      exact (blobFits_iff a).2 ha
    · obtain ⟨a, b, rfl, -, ha, hb⟩ := parseBB_ok h
      exact Bool.and_eq_true_iff.2 ⟨(blobFits_iff a).2 ha, (blobFits_iff b).2 hb⟩
    · obtain ⟨t, rfl, -⟩ := parseT_ok h
      rfl
    · obtain ⟨d, rfl, -⟩ := parseD_ok h
      rfl
    · obtain ⟨a, t, rfl, -, ha⟩ := parseBT_ok h
      exact (blobFits_iff a).2 ha
    · obtain ⟨t, rfl, -⟩ := parseT_ok h
      rfl
    · cases h

end Sys2Proof
end

section
/-! PROOFS. The sequencer's invariant holds after reset and is kept by every transition and by every move of the outside
(10_state.md R21, R27 to R29, R38; 20_memory.md R51, R57). -/

namespace Sys2Proof.Machine

/-! ### What holds of every state a transition works on -/

/-- No request outstanding, no error, and registers and buffers in their ranges (10_state.md R21, R27 to R29; 20_memory.md
R51): what the invariant gives once a transition has taken its frame or its reply. -/
structure State.Quiet (s : State) : Prop where
  op_assigned : s.op.toNat ≤ 8
  bin_top : s.bin.toNat ≤ 0x7FFFFFFF
  code_range : s.code.toNat ≤ 999999
  opa_bound : s.opa.length ≤ 0xFFFFFFFF
  opb_bound : s.opb.length ≤ 0xFFFFFFFF
  res_bound : s.res.length ≤ 0x100000002
  no_request : s.hashPort = none
  no_error : s.err = statusOk

section
variable {s t : State} {i : Instr} {r : Digest} {c : Collaborator} {p : List Byte} {e : Byte} {w : Phase} {m : Frame}

theorem State.Inv.no_error (h : s.Inv) (hp : s.phase ≠ .respond) : s.err = statusOk :=
  Decidable.byContradiction fun he => hp (h.err_respond he)

theorem State.Inv.no_request (h : s.Inv) (hp : s.phase.waiting = false) : s.hashPort = none := by
  simpa [hp] using h.request_iff

theorem State.Inv.quiet (h : s.Inv) (hp : s.phase ≠ .respond) (hw : s.phase.waiting = false) : s.Quiet :=
  { h with no_request := h.no_request hw, no_error := h.no_error hp }

theorem State.Inv.reply_quiet (h : s.Inv) (hp : s.phase ≠ .respond) : (s.reply r c).Quiet :=
  { h with no_request := rfl, no_error := h.no_error hp }

/-! ### What latching, raising, completing and asking make of it -/

/-- Only assigned opcodes are latched (10_state.md R28). -/
theorem opcode_le (i : Instr) : (opcode i).toNat ≤ 8 := by
  cases i <;> simp [opcode]

/-- The operand in `OPA` fits its buffer (20_memory.md R51). -/
theorem length_operandA_le (hw : i.wf = true) : (operandA i).length ≤ 0xFFFFFFFF := by
  cases i with
  | hex2b a | b32dec a | derive a n => exact Nat.le_of_lt_succ ((blobFits_iff a).1 hw)
  | b2hex a => exact ((wf_b2hex_iff a).1 hw).trans (by norm_num)
  | hmac key message => exact Nat.le_of_lt_succ ((blobFits_iff key).1 (Bool.and_eq_true_iff.1 hw).1)
  | trunc d => simp [operandA]
  | ctr n | secrem n => exact Nat.zero_le _

/-- The operand in `OPB` fits its buffer (20_memory.md R51). -/
theorem length_operandB_le (hw : i.wf = true) : (operandB i).length ≤ 0xFFFFFFFF := by
  cases i with
  | hmac key message => exact Nat.le_of_lt_succ ((blobFits_iff message).1 (Bool.and_eq_true_iff.1 hw).2)
  | hex2b | b2hex | b32dec | ctr | trunc | derive | secrem => exact Nat.zero_le _

theorem State.Quiet.latch_quiet (h : s.Quiet) (hw : i.wf = true) : (s.latch i).Quiet :=
  { h with op_assigned := opcode_le i, opa_bound := length_operandA_le hw, opb_bound := length_operandB_le hw }

theorem State.Quiet.latch_inv (h : s.Quiet) (hw : i.wf = true) : (s.latch i).Inv :=
  { h.latch_quiet hw with
    idle_clear := nofun
    request_iff := congrArg Option.isSome h.no_request
    latched_wf := fun _ => ⟨i, latched_latch i s, hw⟩
    wait_op := nofun
    key_request := nofun
    inner_request := nofun
    outer_request := nofun
    err_respond := fun he => absurd h.no_error he
    err_emitted := h.no_error ▸ List.mem_cons_self
    res_nonempty := nofun }

/-- A response is due: an error the block emits, or a result (30_encoding.md R90; 60_exceptions.md R245). -/
theorem State.Quiet.due_inv (h : s.Quiet) (he : e ∈ emittedStatuses) (hok : e = statusOk → 0 < p.length)
    (hp : p.length ≤ 0x100000002) : State.Inv { s with res := p, err := e, phase := .respond } :=
  { h with
    idle_clear := nofun
    request_iff := congrArg Option.isSome h.no_request
    latched_wf := nofun
    wait_op := nofun
    key_request := nofun
    inner_request := nofun
    outer_request := nofun
    err_respond := fun _ => rfl
    err_emitted := he
    res_nonempty := fun _ hs => List.ne_nil_of_length_pos (hok hs)
    res_bound := hp }

theorem State.Quiet.raise_inv (h : s.Quiet) (he : e ∈ emittedStatuses) (hne : e ≠ statusOk) : (s.raise e).Inv :=
  h.due_inv he (fun hok => absurd hok hne) h.res_bound

theorem State.Quiet.complete_inv (h : s.Quiet) (hp : 0 < p.length ∧ p.length ≤ 0x100000002) : (s.complete p).Inv :=
  h.due_inv List.mem_cons_self (fun _ => hp.1) hp.2

/-- A request goes out: the one 20_memory.md R57 lists for the phase. -/
theorem State.Quiet.request_inv (h : s.Quiet) (hop : s.op = 0x04 ∨ s.op = 0x07) (hw : w.waiting = true)
    (hkey : w = .waitKeyhash → s.op = 0x04 ∧ 64 < s.opa.length ∧ m = s.opa)
    (hinner : w = .waitInner → m = ipad s.kblk ++ s.message)
    (houter : w = .waitOuter → m = opad s.kblk ++ s.ihash.val) : (s.request w m).Inv :=
  { h with
    idle_clear := fun hi => by cases hi; cases hw
    request_iff := hw.symm
    latched_wf := fun hi => by cases hi; cases hw
    wait_op := fun _ => hop
    key_request := fun hi => by
      obtain ⟨ho, hl, hm⟩ := hkey hi
      exact ⟨ho, hl, congrArg some hm⟩
    inner_request := fun hi => congrArg some (hinner hi)
    outer_request := fun hi => congrArg some (houter hi)
    err_respond := fun he => absurd h.no_error he
    err_emitted := h.no_error ▸ List.mem_cons_self
    res_nonempty := fun hi => by cases hi; cases hw }

/-- The inner request is over the message of the command in progress (10_state.md R31, R32). -/
theorem State.Quiet.requestInner_inv (h : s.Quiet) (hop : s.op = 0x04 ∨ s.op = 0x07) (k : List Byte)
    (hm : m = s.message) : (s.requestInner k m).Inv :=
  State.Quiet.request_inv (s := { s with kblk := padRight 64 k }) { h with } hop rfl nofun
    (fun _ => congrArg (ipad (padRight 64 k) ++ ·) hm) nofun

/-! ### The code of a digest stays in its range (10_state.md R21) -/

/-- A byte below `n`, shifted left by `k` bits, stays below bit 31 where `n * 2^k` does. -/
theorem toNat_shiftLeft_lt {b : Byte} {k n : Nat} (hb : b.toNat < n) (hn : n * 2 ^ k ≤ 2 ^ 31) :
    (b.setWidth 32 <<< k).toNat < 2 ^ 31 := by
  have hlt := Nat.mul_lt_mul_of_pos_right hb (Nat.two_pow_pos k)
  rw [BitVec.toNat_shiftLeft, Nat.shiftLeft_eq, BitVec.toNat_setWidth_of_le (by decide)]
  exact (Nat.mod_le _ _).trans_lt (hlt.trans_le hn)

/-- The masked first byte of the window leaves bit 31 free (43_totp_deriver.md R184). -/
theorem toNat_binCodeOf_lt (d : Digest) (o : BitVec 4) : (binCodeOf d o).toNat < 2 ^ 31 := by
  have hmask : (windowByte d o 0 &&& Config.signMask).toNat < 128 := by
    rw [BitVec.toNat_and]
    exact Nat.lt_succ_of_le Nat.and_le_right
  simp only [binCodeOf, BitVec.toNat_or]
  refine Nat.or_lt_two_pow (Nat.or_lt_two_pow (Nat.or_lt_two_pow ?_ ?_) ?_) ?_
  · exact toNat_shiftLeft_lt hmask (by norm_num)
  · exact toNat_shiftLeft_lt (BitVec.isLt _) (by norm_num)
  · exact toNat_shiftLeft_lt (BitVec.isLt _) (by norm_num)
  · simpa using toNat_shiftLeft_lt (k := 0) (windowByte d o 3).isLt (by norm_num)

theorem State.Quiet.completeCode_inv (h : s.Quiet) : s.completeCode.Inv :=
  State.Quiet.complete_inv
    (s := { s with off := (truncate s.dig).1, bin := (truncate s.dig).2.1, code := (truncate s.dig).2.2 })
    { h with bin_top := Nat.le_of_lt_succ (toNat_binCodeOf_lt _ _), code_range := codeOf_le _ } (by simp [length_be])

/-! ### The transitions, one lemma for each rule of 10_state.md section 7 -/

/-- An idle state meets the invariant: everything is clear (10_state.md R38). -/
theorem State.Idle.inv (h : s.Idle) : s.Inv := by
  have hs : s = s.cleared := h.symm
  rw [hs]
  exact {
    idle_clear := fun _ => rfl
    request_iff := rfl
    op_assigned := by simp
    latched_wf := nofun
    wait_op := nofun
    key_request := nofun
    inner_request := nofun
    outer_request := nofun
    err_respond := fun he => absurd rfl he
    err_emitted := List.mem_cons_self
    res_nonempty := nofun
    bin_top := by simp
    code_range := by simp
    opa_bound := by simp
    opb_bound := by simp
    res_bound := by simp }

/-- Both frame errors have a status of their own (30_encoding.md R90). -/
theorem frameStatus_emitted (e : FrameError) : frameStatus e ∈ emittedStatuses ∧ frameStatus e ≠ statusOk := by
  cases e <;> decide

theorem accept_inv (h : s.Inv) (hp : s.phase = .idle) : s.accept.Inv := by
  have hq : ∀ rest tr, ({ s with cmdPort := rest, trace := tr } : State).Quiet := fun _ _ =>
    { h.quiet (by simp [hp]) (by simp [hp, Phase.waiting]) with }
  obtain ⟨-, ha⟩ | ⟨f, rest, -, ⟨e, -, ha⟩ | ⟨i, hi, ha⟩⟩ := accept_cases s <;> rw [ha]
  · exact h
  · obtain ⟨he, hne⟩ := frameStatus_emitted e
    exact (hq _ _).raise_inv he hne
  · exact (hq _ _).latch_inv (wf_of_parse hi)

/-- The execute transition, one case for each command (10_state.md R31). -/
theorem State.Quiet.exec_inv (h : s.Quiet) (hw : i.wf = true) (ht : exec i s = .next t) : t.Inv := by
  have hl := h.latch_quiet hw
  cases i with
  | hex2b a =>
    obtain ⟨b, hb, hx⟩ | ⟨-, hx⟩ := execHex2b_cases a s <;> cases hx.symm.trans ht
    · have hlen := length_of_hexToBytes _ hb
      have ha := (blobFits_iff a).1 hw
      refine hl.complete_inv ?_
      rw [blob, List.length_append, length_be]
      omega
    · exact hl.raise_inv (by decide) (by decide)
  | b2hex a =>
    have ha := (wf_b2hex_iff a).1 hw
    cases ht
    refine hl.complete_inv ?_
    rw [blob, List.length_append, length_be, length_bytesToHex, latch_opa, operandA]
    omega
  | b32dec a =>
    obtain ⟨k, -, hx⟩ | ⟨-, hx⟩ := execB32dec_cases a s <;> cases hx.symm.trans ht
    · exact State.Quiet.complete_inv { hl with } (by simp)
    · exact hl.raise_inv (by decide) (by decide)
  | hmac key message =>
    obtain ⟨hk, hx⟩ | ⟨-, hx⟩ := execHmac_cases key message s <;> cases hx.symm.trans ht
    · exact hl.request_inv (.inl rfl) rfl (fun _ => ⟨rfl, hk, rfl⟩) nofun nofun
    · exact hl.requestInner_inv (.inl rfl) key rfl
  | ctr n =>
    cases ht
    exact State.Quiet.complete_inv { hl with } (by simp [length_be])
  | trunc d =>
    cases ht
    exact State.Quiet.completeCode_inv { hl with }
  | derive secret n =>
    obtain ⟨k, -, hx⟩ | ⟨-, hx⟩ := execDerive_cases secret n s <;> cases hx.symm.trans ht
    · exact State.Quiet.requestInner_inv (s := s.deriving secret n k) { hl with } (.inr rfl) k.val rfl
    · exact hl.raise_inv (by decide) (by decide)
  | secrem n =>
    cases ht
    exact hl.complete_inv (by simp [length_be])

/-- The key-hash reply; only HMAC waits for it, so the message is `OPB` (10_state.md R32). -/
theorem onKeyHash_inv (h : s.Inv) (hp : s.phase = .waitKeyhash)
    (ht : onKeyHash r (s.reply r c) = .next t) : t.Inv := by
  obtain ⟨hop, -, -⟩ := h.key_request hp
  have hm : (s.reply r c).opb = (s.reply r c).message := by simp [State.message, hop]
  cases ht
  exact (h.reply_quiet (by simp [hp])).requestInner_inv (.inl hop) r.val hm

theorem onInnerHash_inv (h : s.Inv) (hp : s.phase = .waitInner)
    (ht : onInnerHash r (s.reply r c) = .next t) : t.Inv := by
  have hq : (s.reply r c).Quiet := h.reply_quiet (by simp [hp])
  cases ht
  exact State.Quiet.request_inv { hq with } (h.wait_op (by simp [hp, Phase.waiting])) rfl nofun nofun (fun _ => rfl)

theorem onOuterHash_inv (h : s.Inv) (hp : s.phase = .waitOuter)
    (ht : onOuterHash r (s.reply r c) = .next t) : t.Inv := by
  have hq : (s.reply r c).Quiet := h.reply_quiet (by simp [hp])
  obtain ⟨-, hx⟩ | ⟨-, hx⟩ | ⟨-, -, hx⟩ := onOuterHash_cases r (s.reply r c) <;> cases hx.symm.trans ht
  · exact State.Quiet.complete_inv { hq with } (by simp)
  · exact State.Quiet.completeCode_inv { hq with }

/-- A `WAIT_` phase keeps the invariant where the transition on the reply does. -/
theorem awaitReply_inv {k : Digest → State → Outcome} (h : s.Inv)
    (hk : ∀ r c, k r (s.reply r c) = .next t → t.Inv) (ht : awaitReply k s = .next t) : t.Inv := by
  obtain hx | ⟨m, r, c, -, -, hx⟩ := awaitReply_cases k s
  · cases hx.symm.trans ht
    exact h
  · exact hk r c (hx.symm.trans ht)

theorem respond_inv (h : s.Inv) : s.respond.Inv := by
  obtain ⟨-, hx⟩ | ⟨-, hx⟩ := respond_cases s <;> rw [hx]
  · exact h
  · exact State.Idle.inv rfl

/-- One case for each rule of 10_state.md section 7. -/
theorem step_inv (h : s.Inv) (ht : step s = .next t) : t.Inv := by
  obtain ⟨-, hs⟩ | ⟨-, ⟨hp, hs⟩ | ⟨hp, i, hi, hs⟩ | ⟨-, -, hs⟩ | ⟨hp, hs⟩ | ⟨hp, hs⟩ | ⟨hp, hs⟩ | ⟨-, hs⟩⟩ :=
    step_cases s <;> rw [hs] at ht
  · cases ht
    exact State.Idle.inv rfl
  · cases ht
    exact accept_inv h hp
  · obtain ⟨j, hj, hw⟩ := h.latched_wf hp
    cases hi.symm.trans hj
    exact (h.quiet (by simp [hp]) (by simp [hp, Phase.waiting])).exec_inv hw ht
  · cases ht
  · exact awaitReply_inv h (fun _ _ => onKeyHash_inv h hp) ht
  · exact awaitReply_inv h (fun _ _ => onInnerHash_inv h hp) ht
  · exact awaitReply_inv h (fun _ _ => onOuterHash_inv h hp) ht
  · cases ht
    exact respond_inv h

/-! ### The moves of the outside -/

/-- The outside's moves leave an idle block idle (10_state.md R20). -/
theorem input_idle (h : s.Idle) (x : Input) : (s.input x).Idle := by
  have hs : s = s.cleared := h.symm
  rw [hs]
  cases x <;> rfl

/-- The invariant speaks of the block alone, and the outside's moves change nothing of it (10_state.md R20). -/
theorem input_inv (h : s.Inv) (x : Input) : (s.input x).Inv := by
  cases x with
  | present f => exact { h with idle_clear := fun hp => input_idle (h.idle_clear hp) (.present f) }
  | ready b => exact { h with idle_clear := fun hp => input_idle (h.idle_clear hp) (.ready b) }
  | assertReset => exact { h with idle_clear := fun hp => input_idle (h.idle_clear hp) .assertReset }
  | attach c => exact { h with idle_clear := fun hp => input_idle (h.idle_clear hp) (.attach c) }

end

/-- Settles O46: `step_inv`, one lemma for each rule of section 7. -/
theorem stepKeepsTheInvariant : Obligations.StepKeepsTheInvariant :=
  fun _ _ h ht => step_inv h ht

/-- Settles O47: by induction over reachable states; reset leaves the block idle, transitions and inputs keep the invariant. -/
theorem reachableStatesMeetTheInvariant : Obligations.ReachableStatesMeetTheInvariant :=
  fun _ h => reachable_induct (State.Idle.inv rfl) (fun _ _ hs ht => step_inv hs ht) (fun x _ hs => input_inv hs x) h

end Sys2Proof.Machine
end

section
/-! PROOFS. The transitions one by one, each with its exact next state (10_state.md R30 to R36, R39). -/

namespace Sys2Proof.Machine

section
variable {s : State} {f m : Frame} {rest : List Frame} {i : Instr} {r : Digest} {c : Collaborator}

/-! ### Accepting and executing -/

/-- The oldest frame is taken off the port and loaded (10_state.md R30). -/
theorem step_of_port (hp : s.phase = .idle) (hn : s.resetIn = false) (hf : s.cmdPort = f :: rest) :
    step s = .next (State.load f { s with cmdPort := rest, trace := s.trace ++ [.cmd f] }) := by
  simp [step, hn, hp, State.accept, hf]

/-- In EXEC the command the registers hold is executed (10_state.md R31). -/
theorem step_of_latched (hn : s.resetIn = false) (hp : s.phase = .exec) (hi : s.latched = some i) :
    step s = exec i s := by
  simp [step, hn, hp, hi]

/-! ### The reply to an outstanding request -/

theorem step_waitKeyhash (hn : s.resetIn = false) (hp : s.phase = .waitKeyhash) (hm : s.hashPort = some m)
    (ha : s.collaborator.answer m = some (r, c)) : step s = onKeyHash r (s.reply r c) := by
  simp [step, hn, hp, awaitReply_of_answer hm ha]

theorem step_waitInner (hn : s.resetIn = false) (hp : s.phase = .waitInner) (hm : s.hashPort = some m)
    (ha : s.collaborator.answer m = some (r, c)) : step s = onInnerHash r (s.reply r c) := by
  simp [step, hn, hp, awaitReply_of_answer hm ha]

theorem step_waitOuter (hn : s.resetIn = false) (hp : s.phase = .waitOuter) (hm : s.hashPort = some m)
    (ha : s.collaborator.answer m = some (r, c)) : step s = onOuterHash r (s.reply r c) := by
  simp [step, hn, hp, awaitReply_of_answer hm ha]

/-! ### Responding and reset -/

theorem step_respond (hn : s.resetIn = false) (hp : s.phase = .respond) : step s = .next s.respond := by
  simp [step, hn, hp]

theorem step_reset (hr : s.resetIn = true) : step s = .next s.resetNow := by
  simp [step, hr]

end

/-- Settles O8: `step_of_latched`; a latched command reads back (`latched_latch`). -/
theorem stepRunsTheDecodedCommand : Obligations.StepRunsTheDecodedCommand := by
  refine ⟨fun s i hn hp hi => step_of_latched hn hp hi, fun s f rest i hp hn hf hi => ⟨_, ?_, rfl, latched_latch i _,
    step_latch i (s := { s with cmdPort := rest, trace := s.trace ++ [.cmd f] }) hn⟩⟩
  rw [step_of_port hp hn hf, load_of_ok hi]

/-- Settles O17: the short case of HMAC, the padded key being the block key. -/
theorem hmacStartsWithTheInnerRequest : Obligations.HmacStartsWithTheInnerRequest := by
  intro key message s hk
  obtain ⟨hl, -⟩ | ⟨-, hx⟩ := execHmac_cases key message s
  · omega
  · exact ⟨padRight 64 key, val_padRight hk, hx⟩

/-- Settles O18: the long case of HMAC. -/
theorem hmacHashesALongKeyFirst : Obligations.HmacHashesALongKeyFirst := by
  intro key message s hk
  obtain ⟨-, hx⟩ | ⟨hs, -⟩ := execHmac_cases key message s
  · exact hx
  · omega

/-- Settles O19: the invariant says who waits for a key hash; the 20 bytes of the reply are padded with 44 zeros. -/
theorem keyHashReplyStartsTheInnerHash : Obligations.KeyHashReplyStartsTheInnerHash := by
  refine ⟨fun s hs hp => ?_, fun s m r c hn hp hm ha => ⟨padRight 64 r.val, ?_, ?_⟩⟩
  · obtain ⟨hop, -, -⟩ := (reachableStatesMeetTheInvariant s hs).key_request hp
    exact hop
  · simpa using val_padRight (n := 64) (b := r.val) (by simp)
  · exact step_waitKeyhash hn hp hm ha

/-- Settles O20: the inner-hash reply; 84 is the 64 bytes of the block key and the 20 of the digest. -/
theorem innerHashReplyStartsTheOuterHash : Obligations.InnerHashReplyStartsTheOuterHash := by
  intro s m r c hn hp hm ha
  refine ⟨step_waitInner hn hp hm ha, ?_⟩
  simp

/-- Settles O21: the outer-hash reply, one case for each command that waits for it. -/
theorem outerHashReplyCompletes : Obligations.OuterHashReplyCompletes := by
  intro s m r c hn hp hm ha
  rw [step_waitOuter hn hp hm ha]
  refine ⟨fun hop => ?_, fun hop => ?_⟩
  · simp [onOuterHash, hop, State.complete, State.reply, statusOk]
  · simp [onOuterHash, hop, State.completeCode, State.complete, State.reply, statusOk]

/-- Settles O30: the valid case of DERIVE; the counter fits its register, so `CNT` and its digits are those of the counter. -/
theorem deriveStartsWithTheInnerRequest : Obligations.DeriveStartsWithTheInnerRequest := by
  intro secret t s key hk
  obtain ⟨k, hk', hx⟩ | ⟨he, -⟩ := execDerive_cases secret t s
  · cases hk.symm.trans hk'
    refine ⟨BitVec.ofNat 64 (counter t.toNat), padRight 16 (bytesToHex (be (counter t.toNat) 8)),
      beBytes 8 (counter t.toNat), padRight 64 key.val, toNat_counter t, ?_, ?_, ?_, ?_, hx⟩
    · rw [toNat_counter]
      exact val_padRight_full (by simp [length_be])
    · rw [toNat_counter, val_beBytes]
    · simpa using val_padRight (n := 64) (b := key.val) (by simp)
    · simp [length_be]
  · cases hk.symm.trans he

/-- Settles O36: a host that takes the response gets it, and the cleared state is idle. -/
theorem respondEmitsAndClears : Obligations.RespondEmitsAndClears := by
  intro s hn hp hy
  obtain ⟨hy', -⟩ | ⟨-, hx⟩ := respond_cases s
  · cases hy.symm.trans hy'
  · exact ⟨_, (step_respond hn hp).trans (congrArg _ hx), rfl, rfl⟩

/-- Settles O42: the reset state, field by field; the byte registers are zeros. -/
theorem resetValues : Obligations.ResetValues := by
  refine ⟨rfl, rfl, rfl, rfl, rfl, rfl, ?_, rfl, rfl, rfl, rfl, rfl, rfl, rfl, rfl⟩
  simp [State.reset]

end Sys2Proof.Machine
end

section
/-! PROOFS. The events of one transition (10_state.md section 7), and what they say of the ports. -/

namespace Sys2Proof.Machine

/-- The events one transition from `s` can have, with what has to hold of `s` for them (10_state.md R30 to R36). -/
inductive State.Allows (s : State) : List Event → Prop
  | silent : s.Allows []
  | reset : s.Allows [.reset]
  | accept (f : Frame) : s.phase = .idle → s.Allows [.cmd f]
  | request (m : Frame) : s.phase = .exec → s.Allows [.hashReq m]
  | replyRequest (r : Digest) (m : Frame) : s.hashPort.isSome → s.phase.waiting → s.Allows [.hashReply r, .hashReq m]
  | reply (r : Digest) : s.hashPort.isSome → s.phase.waiting → s.Allows [.hashReply r]
  | respond (g : Frame) : s.phase = .respond → s.Allows [.rsp g]

/-- `t` has had the events `es` since `s`, as a transition from `s` may; outside IDLE the CMD port is as it was. -/
def State.Advances (s t : State) : Prop :=
  (∃ es, t.trace = s.trace ++ es ∧ s.Allows es) ∧ (s.phase ≠ .idle → t.cmdPort = s.cmdPort)

section
variable {s t : State}

theorem advances_self (s : State) : s.Advances s := ⟨⟨[], by simp, .silent⟩, fun _ => rfl⟩

theorem accept_advances (hp : s.phase = .idle) : s.Advances s.accept := by
  refine ⟨?_, fun h => absurd hp h⟩
  obtain ⟨-, h⟩ | ⟨f, rest, -, ⟨e, -, h⟩ | ⟨i, -, h⟩⟩ := accept_cases s <;> rw [h]
  · exact ⟨[], by simp, .silent⟩
  · exact ⟨[.cmd f], rfl, .accept f hp⟩
  · exact ⟨[.cmd f], rfl, .accept f hp⟩

theorem exec_advances {i : Instr} (hp : s.phase = .exec) (h : exec i s = .next t) : s.Advances t := by
  obtain ⟨-, -, -, hc, -, ⟨-, htr, -⟩ | ⟨m, -, htr, -⟩⟩ := exec_ports h
  · exact ⟨⟨[], by simp [htr], .silent⟩, fun _ => hc⟩
  · exact ⟨⟨[.hashReq m], htr, .request m hp⟩, fun _ => hc⟩

/-- What the transition on a reply adds to the trace: nothing, or the next request (10_state.md R32 to R34). -/
def AddsAtMostARequest (k : Digest → State → Outcome) : Prop :=
  ∀ {r s t}, k r s = .next t → t.cmdPort = s.cmdPort ∧ (t.trace = s.trace ∨ ∃ m, t.trace = s.trace ++ [.hashReq m])

theorem onKeyHash_adds : AddsAtMostARequest onKeyHash := by
  intro r s t h
  cases h
  exact ⟨rfl, .inr ⟨_, rfl⟩⟩

theorem onInnerHash_adds : AddsAtMostARequest onInnerHash := by
  intro r s t h
  cases h
  exact ⟨rfl, .inr ⟨_, rfl⟩⟩

theorem onOuterHash_adds : AddsAtMostARequest onOuterHash := by
  intro r s t h
  obtain ⟨-, hx⟩ | ⟨-, hx⟩ | ⟨-, -, hx⟩ := onOuterHash_cases r s <;> cases hx.symm.trans h
  · exact ⟨rfl, .inl rfl⟩
  · exact ⟨rfl, .inl rfl⟩

/-- A reply is taken only where a request is outstanding (10_state.md R36, 20_memory.md R56). -/
theorem awaitReply_advances {k : Digest → State → Outcome} (hk : AddsAtMostARequest k) (hw : s.phase.waiting)
    (h : awaitReply k s = .next t) : s.Advances t := by
  obtain hx | ⟨m, r, c, hm, -, hx⟩ := awaitReply_cases k s
  · cases hx.symm.trans h
    exact advances_self s
  · have hs : s.hashPort.isSome := hm ▸ rfl
    obtain ⟨hc, htr | ⟨m', htr⟩⟩ := hk (hx.symm.trans h)
    · exact ⟨⟨[.hashReply r], htr, .reply r hs hw⟩, fun _ => hc⟩
    · exact ⟨⟨[.hashReply r, .hashReq m'], by simp [htr], .replyRequest r m' hs hw⟩, fun _ => hc⟩

theorem respond_advances (hp : s.phase = .respond) : s.Advances s.respond := by
  obtain ⟨-, h⟩ | ⟨-, h⟩ := respond_cases s <;> rw [h]
  · exact advances_self s
  · exact ⟨⟨[.rsp s.response], rfl, .respond _ hp⟩, fun _ => rfl⟩

/-- One case for each rule of 10_state.md section 7. -/
theorem step_advances (h : step s = .next t) : s.Advances t := by
  obtain ⟨-, hs⟩ | ⟨-, ⟨hp, hs⟩ | ⟨hp, i, -, hs⟩ | ⟨-, -, hs⟩ | ⟨hp, hs⟩ | ⟨hp, hs⟩ | ⟨hp, hs⟩ | ⟨hp, hs⟩⟩ :=
    step_cases s <;> rw [hs] at h
  · cases h
    exact ⟨⟨[.reset], rfl, .reset⟩, fun _ => rfl⟩
  · cases h
    exact accept_advances hp
  · exact exec_advances hp h
  · cases h
  · exact awaitReply_advances onKeyHash_adds (hp ▸ rfl) h
  · exact awaitReply_advances onInnerHash_adds (hp ▸ rfl) h
  · exact awaitReply_advances onOuterHash_adds (hp ▸ rfl) h
  · cases h
    exact respond_advances hp

end

/-- A frame is accepted in IDLE only (10_state.md R30). -/
theorem State.Allows.no_cmd {s : State} {es : List Event} (h : s.Allows es) (hp : s.phase ≠ .idle) (f : Frame) :
    Event.cmd f ∉ es := by
  cases h with
  | accept g hi => exact absurd hi hp
  | _ => simp

/-- A reply is consumed only while a request is outstanding (10_state.md R36). -/
theorem State.Allows.no_reply {s : State} {es : List Event} (h : s.Allows es) (hh : s.hashPort = none) (r : Digest) :
    Event.hashReply r ∉ es := by
  cases h with
  | replyRequest r' m hs | reply r' hs => simp [hh] at hs
  | _ => simp

/-- Settles O7: accepting loads the frame `parse` reads; outside IDLE a transition has no `cmd` event and leaves the port. -/
theorem acceptFollowsTheParse : Obligations.AcceptFollowsTheParse := by
  refine ⟨fun s f rest i hp hn hf hi => ?_, fun s f rest e hp hn hf he => ?_, fun s t hp h => ?_⟩
  · rw [step_of_port hp hn hf, load_of_ok hi]
    rfl
  · rw [step_of_port hp hn hf, load_of_error he]
    cases e <;> rfl
  · obtain ⟨⟨es, htr, hes⟩, hc⟩ := step_advances h
    exact ⟨hc hp, es, htr, hes.no_cmd hp⟩

/-- Settles O40: reset comes first and leaves the block idle; without a request a transition has no reply event. -/
theorem resetInEveryPhase : Obligations.ResetInEveryPhase := by
  refine ⟨fun s hr => ⟨s.resetNow, step_reset hr, rfl, rfl, rfl, rfl⟩, fun s t hh h => ?_⟩
  obtain ⟨⟨es, htr, hes⟩, -⟩ := step_advances h
  exact ⟨es, htr, hes.no_reply hh⟩

end Sys2Proof.Machine
end

section
/-! PROOFS. The frame of the execute transition (10_state.md R22, R31). -/

namespace Sys2Proof.Machine

/-- The execute transition of every command answers a next state (10_state.md R31; 60_exceptions.md R247). -/
theorem exec_answers (i : Instr) (s : State) : ∃ t, exec i s = .next t := by
  cases i with
  | hex2b a => obtain ⟨b, -, hx⟩ | ⟨-, hx⟩ := execHex2b_cases a s <;> exact ⟨_, hx⟩
  | b32dec a => obtain ⟨k, -, hx⟩ | ⟨-, hx⟩ := execB32dec_cases a s <;> exact ⟨_, hx⟩
  | hmac key message => obtain ⟨-, hx⟩ | ⟨-, hx⟩ := execHmac_cases key message s <;> exact ⟨_, hx⟩
  | derive secret t => obtain ⟨k, -, hx⟩ | ⟨-, hx⟩ := execDerive_cases secret t s <;> exact ⟨_, hx⟩
  | b2hex | ctr | trunc | secrem => exact ⟨_, rfl⟩

/-- Settles O9: each command's next state, in each of its cases, is written out on the latched state; what it does not
write is read off. -/
theorem executeWritesOnlyItsRegisters : Obligations.ExecuteWritesOnlyItsRegisters := by
  intro i s t h
  cases i with
  | hex2b a =>
    obtain ⟨b, -, hx⟩ | ⟨-, hx⟩ := execHex2b_cases a s <;> cases hx.symm.trans h
    · simp [statusOk]
    · simp
  | b2hex a =>
    cases h
    simp [statusOk]
  | b32dec a =>
    obtain ⟨k, -, hx⟩ | ⟨-, hx⟩ := execB32dec_cases a s <;> cases hx.symm.trans h
    · simp [statusOk]
    · simp
  | hmac key message =>
    obtain ⟨-, hx⟩ | ⟨-, hx⟩ := execHmac_cases key message s <;> cases hx.symm.trans h
    · simp
    · simp [State.requestInner]
  | ctr n =>
    cases h
    simp [statusOk]
  | trunc d =>
    cases h
    simp [State.completeCode, statusOk]
  | derive secret n =>
    obtain ⟨k, -, hx⟩ | ⟨-, hx⟩ := execDerive_cases secret n s <;> cases hx.symm.trans h
    · simp [State.requestInner, State.deriving]
    · simp
  | secrem n =>
    cases h
    simp [statusOk]

end Sys2Proof.Machine
end

section
/-! PROOFS. The sequence of `PHASE` values of a command (10_state.md R25). -/

namespace Sys2Proof.Machine

section
variable {s t : State} {sha1 : Frame → Digest} {p : Phase} {ps : List Phase} {n : Nat} {m : Frame}

/-- One transition from phase `p`, then the trail of the rest. -/
theorem phaseTrail_of_step (hp : s.phase = p) (hst : step s = .next t) (ht : phaseTrail n t = ps) :
    phaseTrail (n + 1) s = p :: ps := by
  rw [phaseTrail_succ n hst, hp, ht]

/-- The execute transition keeps the outside's readiness and the collaborator. -/
theorem exec_served {i : Instr} (hs : s.Served sha1) (h : exec i s = .next t) : t.Served sha1 := by
  obtain ⟨-, hy, hc, -, hn, -⟩ := exec_ports h
  exact ⟨hn.trans hs.no_reset, hy.trans hs.ready, hc ▸ hs.computes⟩

theorem phaseTrail_respond (hs : s.Served sha1) (hp : s.phase = .respond) : phaseTrail 1 s = [.respond, .idle] := by
  refine phaseTrail_of_step hp (step_respond hs.no_reset hp) ?_
  simp [phaseTrail, State.respond, hs.ready]

theorem phaseTrail_waitOuter (hs : s.Served sha1) (hp : s.phase = .waitOuter) (hm : s.hashPort = some m)
    (hop : s.op = 0x04 ∨ s.op = 0x07) : phaseTrail 2 s = [.waitOuter, .respond, .idle] := by
  have hst := step_waitOuter hs.no_reset hp hm (hs.computes m)
  obtain ⟨-, hx⟩ | ⟨-, hx⟩ | ⟨h4, h7, -⟩ := onOuterHash_cases (sha1 m) (s.reply (sha1 m) s.collaborator)
  · exact phaseTrail_of_step hp (hst.trans hx) (phaseTrail_respond ⟨hs.no_reset, hs.ready, hs.computes⟩ rfl)
  · exact phaseTrail_of_step hp (hst.trans hx) (phaseTrail_respond ⟨hs.no_reset, hs.ready, hs.computes⟩ rfl)
  · obtain hop | hop := hop
    · simp [hop] at h4
    · simp [hop] at h7

theorem phaseTrail_waitInner (hs : s.Served sha1) (hp : s.phase = .waitInner) (hm : s.hashPort = some m)
    (hop : s.op = 0x04 ∨ s.op = 0x07) : phaseTrail 3 s = [.waitInner, .waitOuter, .respond, .idle] :=
  phaseTrail_of_step hp (step_waitInner hs.no_reset hp hm (hs.computes m))
    (phaseTrail_waitOuter ⟨hs.no_reset, hs.ready, hs.computes⟩ rfl rfl hop)

theorem phaseTrail_waitKeyhash (hs : s.Served sha1) (hp : s.phase = .waitKeyhash) (hm : s.hashPort = some m)
    (hop : s.op = 0x04) : phaseTrail 4 s = [.waitKeyhash, .waitInner, .waitOuter, .respond, .idle] :=
  phaseTrail_of_step hp (step_waitKeyhash hs.no_reset hp hm (hs.computes m))
    (phaseTrail_waitInner ⟨hs.no_reset, hs.ready, hs.computes⟩ rfl rfl (.inl hop))

/-- A frame with an error goes from IDLE to its response (10_state.md R30). -/
theorem phaseTrail_of_parse_error {f : Frame} {rest : List Frame} {e : FrameError} (hs : s.Served sha1)
    (hp : s.phase = .idle) (hf : s.cmdPort = f :: rest) (he : parse f = .error e) :
    phaseTrail 2 s = [.idle, .respond, .idle] := by
  have hst := step_of_port hp hs.no_reset hf
  rw [load_of_error he] at hst
  exact phaseTrail_of_step hp hst (phaseTrail_respond ⟨hs.no_reset, hs.ready, hs.computes⟩ rfl)

/-- A command goes from IDLE over EXEC to wherever its execute transition leads (10_state.md R30, R31). -/
theorem phaseTrail_of_parse_ok {f : Frame} {rest : List Frame} {i : Instr} (hs : s.Served sha1)
    (hp : s.phase = .idle) (hf : s.cmdPort = f :: rest) (hi : parse f = .ok i)
    (ht : ∀ u t, exec i u = .next t → t.Served sha1 → phaseTrail n t = ps) :
    phaseTrail (n + 2) s = .idle :: .exec :: ps := by
  have hst := step_of_port hp hs.no_reset hf
  rw [load_of_ok hi] at hst
  let u : State := State.latch i { s with cmdPort := rest, trace := s.trace ++ [.cmd f] }
  have hu : u.Served sha1 := ⟨hs.no_reset, hs.ready, hs.computes⟩
  obtain ⟨t, hx⟩ := exec_answers i u
  exact phaseTrail_of_step hp hst (phaseTrail_of_step rfl ((step_of_latched hu.no_reset rfl (latched_latch i _)).trans hx)
    (ht u t hx (exec_served hu hx)))

end

/-- Settles O54: from IDLE over EXEC (`phaseTrail_of_parse_ok`), then the trail from the phase the command's execute
transition leads to. -/
theorem phaseSequences : Obligations.PhaseSequences := by
  intro s f rest sha1 hs hc
  have hv : s.Served sha1 := ⟨hs.no_reset, hs.ready, hc⟩
  have hp : s.phase = .idle := (congrArg State.phase (hs.idle : s.cleared = s)).symm
  refine ⟨fun e he => phaseTrail_of_parse_error hv hp hs.port he, fun i hi hh hd => ?_, fun k m hi hk => ?_,
    fun k m hi hk => ?_, fun a n k hi hk => ?_, fun a n e hi he => ?_⟩ <;>
    refine phaseTrail_of_parse_ok hv hp hs.port hi fun u t hx ht => ?_
  · obtain ⟨-, -, -, -, -, -, hport, -⟩ := executeWritesOnlyItsRegisters i u t hx
    obtain ⟨-, -, -, hr⟩ := hport hh hd
    exact phaseTrail_respond ht hr
  · obtain ⟨hl, -⟩ | ⟨-, hm⟩ := execHmac_cases k m u
    · omega
    · cases hm.symm.trans hx
      exact phaseTrail_waitInner ht rfl rfl (.inl rfl)
  · obtain ⟨-, hm⟩ | ⟨hl, -⟩ := execHmac_cases k m u
    · cases hm.symm.trans hx
      exact phaseTrail_waitKeyhash ht rfl rfl rfl
    · omega
  · obtain ⟨k', -, hd⟩ | ⟨he, -⟩ := execDerive_cases a n u
    · cases hd.symm.trans hx
      exact phaseTrail_waitInner ht rfl rfl (.inr rfl)
    · cases hk.symm.trans he
  · obtain ⟨k, hk, -⟩ | ⟨-, hd⟩ := execDerive_cases a n u
    · cases he.symm.trans hk
    · cases hd.symm.trans hx
      exact phaseTrail_respond ht rfl

end Sys2Proof.Machine
end

section
/-! PROOFS. Every transition keeps the protocol at the ports (20_memory.md R57, R60; 10_state.md R29). -/

namespace Sys2Proof.Machine

/-- `t` has had events since `s` that take an observer who knew `v` to what it should know of `t`. -/
def State.ObservedFrom (s : State) (v : PortView) (t : State) : Prop :=
  ∃ es, t.trace = s.trace ++ es ∧ v.after es = some t.phase.view

section
variable {s t : State} {v w : PortView} {e : Event}

theorem observedFrom_silent (ht : t.trace = s.trace) (hp : t.phase.view = v) : s.ObservedFrom v t :=
  ⟨[], by simp [ht], congrArg some hp.symm⟩

theorem observedFrom_event (ht : t.trace = s.trace ++ [e]) (he : v.next e = some t.phase.view) : s.ObservedFrom v t :=
  ⟨[e], ht, by simp [PortView.after, he]⟩

/-- What is observed after an event is observed from before it. -/
theorem State.ObservedFrom.after_event {u : State} (h : u.ObservedFrom w t) (hu : u.trace = s.trace ++ [e])
    (he : v.next e = some w) : s.ObservedFrom v t := by
  obtain ⟨es, ht, hes⟩ := h
  exact ⟨e :: es, by simp [ht, hu], by simp [PortView.after, he, hes]⟩

/-- An observer who has followed the ports up to `s` knows what it should know of `t` (20_memory.md R60). -/
theorem State.ObservedFrom.traceOk (h : s.ObservedFrom s.phase.view t) (hs : s.TraceOk) : t.TraceOk := by
  obtain ⟨es, ht, hes⟩ := h
  have hs : PortView.idle.after s.trace = some s.phase.view := hs
  rw [State.TraceOk, ht, after_append, hs]
  exact hes

/-! ### The transitions, one lemma for each rule of 10_state.md section 7 -/

theorem accept_observed (hp : s.phase = .idle) : s.ObservedFrom .idle s.accept := by
  obtain ⟨-, h⟩ | ⟨f, rest, -, ⟨e, -, h⟩ | ⟨i, -, h⟩⟩ := accept_cases s <;> rw [h]
  · exact observedFrom_silent rfl (by rw [hp]; rfl)
  · exact observedFrom_event (e := .cmd f) rfl rfl
  · exact observedFrom_event (e := .cmd f) rfl rfl

/-- A command makes its response due or sends its first request (10_state.md R31). -/
theorem exec_observed {i : Instr} (h : exec i s = .next t) : s.ObservedFrom .busy t := by
  obtain ⟨-, -, -, -, -, ⟨hp, ht, -⟩ | ⟨m, hp | hp, ht, -⟩⟩ := exec_ports h
  · exact observedFrom_silent ht (by rw [hp]; rfl)
  · exact observedFrom_event ht (by rw [hp]; rfl)
  · exact observedFrom_event ht (by rw [hp]; rfl)

theorem onKeyHash_observed {r : Digest} (h : onKeyHash r s = .next t) : s.ObservedFrom .busy t := by
  cases h
  exact observedFrom_event rfl rfl

theorem onInnerHash_observed {r : Digest} (h : onInnerHash r s = .next t) : s.ObservedFrom .busy t := by
  cases h
  exact observedFrom_event rfl rfl

theorem onOuterHash_observed {r : Digest} (h : onOuterHash r s = .next t) : s.ObservedFrom .busy t := by
  obtain ⟨-, hx⟩ | ⟨-, hx⟩ | ⟨-, -, hx⟩ := onOuterHash_cases r s <;> cases hx.symm.trans h
  · exact observedFrom_silent rfl rfl
  · exact observedFrom_silent rfl rfl

/-- In a `WAIT_` phase nothing happens, or the reply comes first (20_memory.md R56). -/
theorem awaitReply_observed {k : Digest → State → Outcome}
    (hk : ∀ {r u}, k r u = .next t → u.ObservedFrom .busy t) (hp : s.phase.view = .asked)
    (h : awaitReply k s = .next t) : s.ObservedFrom .asked t := by
  obtain hx | ⟨m, r, c, -, -, hx⟩ := awaitReply_cases k s
  · cases hx.symm.trans h
    exact observedFrom_silent rfl hp
  · exact (hk (hx.symm.trans h)).after_event (reply_trace r c s) rfl

theorem respond_observed (hp : s.phase = .respond) : s.ObservedFrom .busy s.respond := by
  obtain ⟨-, h⟩ | ⟨-, h⟩ := respond_cases s <;> rw [h]
  · exact observedFrom_silent rfl (by rw [hp]; rfl)
  · exact observedFrom_event (e := .rsp s.response) rfl rfl

/-- The protocol allows a reset at any time (10_state.md R36). -/
theorem resetNow_observed (v : PortView) (s : State) : s.ObservedFrom v s.resetNow :=
  observedFrom_event (resetNow_trace s) (by cases v <;> rfl)

/-- One case for each rule of 10_state.md section 7. -/
theorem step_observed (h : step s = .next t) : s.ObservedFrom s.phase.view t := by
  obtain ⟨-, hs⟩ | ⟨-, ⟨hp, hs⟩ | ⟨hp, i, -, hs⟩ | ⟨-, -, hs⟩ | ⟨hp, hs⟩ | ⟨hp, hs⟩ | ⟨hp, hs⟩ | ⟨hp, hs⟩⟩ :=
    step_cases s <;> rw [hs] at h
  · cases h
    exact resetNow_observed _ s
  · cases h
    rw [hp]
    exact accept_observed hp
  · rw [hp]
    exact exec_observed h
  · cases h
  · rw [hp]
    exact awaitReply_observed onKeyHash_observed (hp ▸ rfl) h
  · rw [hp]
    exact awaitReply_observed onInnerHash_observed (hp ▸ rfl) h
  · rw [hp]
    exact awaitReply_observed onOuterHash_observed (hp ▸ rfl) h
  · cases h
    rw [hp]
    exact respond_observed hp

/-- A move of the outside is no event at the ports and leaves the phase (10_state.md R20). -/
theorem input_traceOk (x : Input) (h : s.TraceOk) : (s.input x).TraceOk := by
  cases x with
  | present | ready | assertReset | attach => exact h

end

/-- Settles O50: the events of a transition lead from what an observer knows of the state before it to what it should
know of the state after it (`step_observed`). -/
theorem stepKeepsTheProtocol : Obligations.StepKeepsTheProtocol :=
  fun _ _ hs h => (step_observed h).traceOk hs

/-- Settles O49: by induction over reachable states; after reset nothing has happened, and transitions and inputs keep the
protocol. -/
theorem portsFollowTheProtocol : Obligations.PortsFollowTheProtocol :=
  fun _ h => reachable_induct (P := State.TraceOk) rfl stepKeepsTheProtocol (fun x _ hs => input_traceOk x hs) h

end Sys2Proof.Machine
end

section
/-! PROOFS. What the HASH requests hold, and how long they are (20_memory.md R58, R65). -/

namespace Sys2Proof.Machine

/-- XOR with a pad byte undoes itself, so the block key stands readable under its pad (20_memory.md R65). -/
theorem map_xor_take_padded (k : Bytes 64) (pad : Byte) (b : List Byte) :
    ((k.val.map (· ^^^ pad) ++ b).take 64).map (· ^^^ pad) = k.val := by
  rw [List.take_left' (by simp), List.map_map]
  simp [Function.comp_def]

/-- Settles O52: the invariant says what the two requests are; `map_xor_take_padded` reads the key out of each. -/
theorem requestsRevealTheBlockKey : Obligations.RequestsRevealTheBlockKey :=
  fun s h => ⟨fun hp => ⟨_, h.inner_request hp, map_xor_take_padded s.kblk _ _⟩,
    fun hp => ⟨_, h.outer_request hp, map_xor_take_padded s.kblk _ _⟩⟩

@[simp] theorem length_ipad (k : Bytes 64) : (ipad k).length = 64 := by simp [ipad]

@[simp] theorem length_opad (k : Bytes 64) : (opad k).length = 64 := by simp [opad]

/-- The message of DERIVE is the counter's 8 bytes (43_totp_deriver.md R182). -/
theorem length_message_of_derive {s : State} (hop : s.op = 0x07) : s.message.length = 8 := by
  simp [State.message, hop]

/-- The message fits the buffer it comes from (20_memory.md R51). -/
theorem State.Inv.length_message_le {s : State} (h : s.Inv) : s.message.length ≤ 0xFFFFFFFF := by
  by_cases hop : s.op = 0x07
  · rw [length_message_of_derive hop]
    norm_num
  · rw [State.message, if_neg hop]
    exact h.opb_bound

/-- Settles O53: a request is outstanding in the three `WAIT_` phases only, and the invariant gives its bytes in each. -/
theorem requestLengths : Obligations.RequestLengths := by
  intro s m h hm
  have hw : s.phase.waiting = true := by rw [← h.request_iff, hm]; rfl
  cases hp : s.phase with
  | waitKeyhash =>
    obtain ⟨-, hl, hk⟩ := h.key_request hp
    cases hm.symm.trans hk
    exact ⟨nofun, nofun, fun _ => ⟨rfl, hl⟩, h.opa_bound.trans (by norm_num)⟩
  | waitInner =>
    cases hm.symm.trans (h.inner_request hp)
    have hlen : (ipad s.kblk ++ s.message).length = 64 + s.message.length := by simp
    have hmsg := h.length_message_le
    refine ⟨fun _ => ⟨hlen, fun hop => ?_⟩, nofun, nofun, by omega⟩
    rw [hlen, length_message_of_derive hop]
  | waitOuter =>
    cases hm.symm.trans (h.outer_request hp)
    have hlen : (opad s.kblk ++ s.ihash.val).length = 84 := by simp
    exact ⟨nofun, fun _ => hlen, nofun, hlen.trans_le (by norm_num)⟩
  | idle | exec | respond => simp [hp, Phase.waiting] at hw

end Sys2Proof.Machine
end

section
/-! PROOFS. Frames and commands: `parse` and `encode` are inverse, and the length that makes a frame a command
(30_encoding.md R84, R88, R91, R92). -/

namespace Sys2Proof

/-! ### Each format reads what it writes (30_encoding.md R84) -/

theorem parseB_blob (mk : List Byte → Instr) {a : List Byte} (h : a.length < 2 ^ 32) : parseB mk (blob a) = .ok (mk a) := by
  rw [parseB, ← List.append_nil (blob a), takeBlob_blob a [] h]
  rfl

theorem parseB2hex_blob {a : List Byte} (h : a.length ≤ 0x7FFFFFFF) : parseB2hex (blob a) = .ok (.b2hex a) := by
  rw [parseB2hex, ← List.append_nil (blob a), takeBlob_blob a [] (by omega)]
  exact if_neg (Nat.not_lt.2 h)

theorem parseBB_blobs (mk : List Byte → List Byte → Instr) {a b : List Byte} (ha : a.length < 2 ^ 32)
    (hb : b.length < 2 ^ 32) : parseBB mk (blob a ++ blob b) = .ok (mk a b) := by
  rw [parseBB, takeBlob_blob a _ ha]
  exact parseB_blob (mk a) hb

theorem parseT_be (mk : Word64 → Instr) (t : Word64) : parseT mk (be t.toNat 8) = .ok (mk t) := by
  have ht : takeFixed 8 (be t.toNat 8) = .ok (beBytes 8 t.toNat, []) := by
    simpa using takeFixed_append (beBytes 8 t.toNat) []
  simp only [parseT, ht, timeOf_be, endFrame]

theorem parseD_val (mk : Digest → Instr) (d : Digest) : parseD mk d.val = .ok (mk d) := by
  have hd : takeFixed 20 d.val = .ok (d, []) := by simpa using takeFixed_append d []
  simp only [parseD, hd, endFrame]

theorem parseBT_blob (mk : List Byte → Word64 → Instr) {a : List Byte} (ha : a.length < 2 ^ 32) (t : Word64) :
    parseBT mk (blob a ++ be t.toNat 8) = .ok (mk a t) := by
  rw [parseBT, takeBlob_blob a _ ha]
  exact parseT_be (mk a) t

/-! ### A command has exactly one frame (30_encoding.md R92) -/

/-- The frame of a command whose fields are in range is read as that command. -/
theorem parse_encode {i : Instr} (h : i.wf = true) : parse (encode i) = .ok i := by
  cases i with
  | hex2b a => exact parseB_blob .hex2b ((blobFits_iff a).1 h)
  | b2hex a => exact parseB2hex_blob ((wf_b2hex_iff a).1 h)
  | b32dec a => exact parseB_blob .b32dec ((blobFits_iff a).1 h)
  | hmac key message =>
    obtain ⟨hk, hm⟩ := Bool.and_eq_true_iff.1 h
    exact parseBB_blobs .hmac ((blobFits_iff key).1 hk) ((blobFits_iff message).1 hm)
  | ctr t => exact parseT_be .ctr t
  | trunc d => exact parseD_val .trunc d
  | derive secret t => exact parseBT_blob .derive ((blobFits_iff secret).1 h) t
  | secrem t => exact parseT_be .secrem t

theorem parse_of_encode {f : Frame} {i : Instr} (hw : i.wf = true) (hf : encode i = f) : parse f = .ok i :=
  hf ▸ parse_encode hw

/-- A frame that is a command holds its opcode and its operand fields (30_encoding.md R81). -/
theorem fields_of_parse {op : Byte} {r : List Byte} {i : Instr} (h : parse (op :: r) = .ok i) :
    op.toNat = (opcode i).toNat ∧ r = operandFields i := by
  simp only [parse] at h
  split at h
  · next hop => obtain ⟨a, rfl, rfl, -⟩ := parseB_ok h; exact ⟨hop, rfl⟩
  · next hop => obtain ⟨a, rfl, rfl, -⟩ := parseB2hex_ok h; exact ⟨hop, rfl⟩
  · next hop => obtain ⟨a, rfl, rfl, -⟩ := parseB_ok h; exact ⟨hop, rfl⟩
  · next hop => obtain ⟨a, b, rfl, rfl, -⟩ := parseBB_ok h; exact ⟨hop, rfl⟩
  · next hop => obtain ⟨t, rfl, rfl⟩ := parseT_ok h; exact ⟨hop, rfl⟩
  · next hop => obtain ⟨d, rfl, rfl⟩ := parseD_ok h; exact ⟨hop, rfl⟩
  · next hop => obtain ⟨a, t, rfl, rfl, -⟩ := parseBT_ok h; exact ⟨hop, rfl⟩
  · next hop => obtain ⟨t, rfl, rfl⟩ := parseT_ok h; exact ⟨hop, rfl⟩
  · cases h

theorem encode_of_parse {f : Frame} {i : Instr} (h : parse f = .ok i) : encode i = f := by
  cases f with
  | nil => cases h
  | cons op r =>
    obtain ⟨hop, rfl⟩ := fields_of_parse h
    rw [encode, BitVec.eq_of_toNat_eq hop]

/-- Settles O1: `parse_encode` one way; `encode_of_parse` and `wf_of_parse` the other. -/
theorem parseAndEncodeAreInverse : Obligations.ParseAndEncodeAreInverse :=
  ⟨fun _ => parse_encode, fun _ _ h => ⟨encode_of_parse h, wf_of_parse h⟩⟩

/-- The frames that are commands are the frames of the commands whose fields are in range (30_encoding.md R92). -/
theorem exists_parse_iff_exists_encode (f : Frame) :
    (∃ i, parse f = .ok i) ↔ ∃ i : Instr, i.wf = true ∧ encode i = f := by
  constructor
  · rintro ⟨i, h⟩
    exact ⟨i, wf_of_parse h, encode_of_parse h⟩
  · rintro ⟨i, hw, hf⟩
    exact ⟨i, parse_of_encode hw hf⟩

/-! ### The length fields of a frame (30_encoding.md R91) -/

theorem length_blob (a : List Byte) : (blob a).length = 4 + a.length := by
  rw [blob, List.length_append, length_be]

/-- A position after the opcode and a length field, counted from the byte after the opcode. -/
theorem lengthField_cons (op : Byte) (r : List Byte) (n : Nat) : lengthField (op :: r) (5 + n) = lengthField r (4 + n) := by
  rw [show 5 + n = 4 + n + 1 by omega]
  rfl

theorem lengthField_blob_append {a : List Byte} (r : List Byte) (h : a.length < 2 ^ 32) :
    lengthField (blob a ++ r) 0 = a.length := by
  have hfour := length_be a.length 4
  rw [lengthField, List.drop_zero, blob, List.append_assoc, padRight_append _ _ hfour.ge,
    List.take_of_length_le hfour.le, unbe_be_of_lt (by norm_num; omega)]

theorem lengthField_blob {a : List Byte} (h : a.length < 2 ^ 32) : lengthField (blob a) 0 = a.length := by
  simpa using lengthField_blob_append [] h

/-- The field after a blob is where the blob ends. -/
theorem lengthField_after_blob (a r : List Byte) : lengthField (blob a ++ r) (4 + a.length) = lengthField r 0 := by
  rw [lengthField, List.drop_left' (length_blob a)]
  rfl

/-- The second length field of format `BB` is found through the first (30_encoding.md R84). -/
theorem frameLength_hmac {a : List Byte} (r : List Byte) (h : a.length < 2 ^ 32) :
    frameLength (0x04 :: (blob a ++ r)) = 9 + a.length + lengthField r 0 := by
  have hfirst : lengthField (0x04 :: (blob a ++ r)) 1 = a.length := lengthField_blob_append r h
  change 9 + lengthField _ 1 + lengthField _ (5 + lengthField _ 1) = _
  rw [hfirst, lengthField_cons, lengthField_after_blob]

/-- The length of a command's frame is the one its content determines (30_encoding.md R91). -/
theorem frameLength_encode {i : Instr} (h : i.wf = true) : frameLength (encode i) = (encode i).length := by
  cases i with
  | hex2b a =>
    exact (congrArg (5 + ·) (lengthField_blob ((blobFits_iff a).1 h))).trans (Laws.EncodedLength.hex2b a).symm
  | b2hex a =>
    have ha := (wf_b2hex_iff a).1 h
    exact (congrArg (5 + ·) (lengthField_blob (by omega))).trans (Laws.EncodedLength.b2hex a).symm
  | b32dec a =>
    exact (congrArg (5 + ·) (lengthField_blob ((blobFits_iff a).1 h))).trans (Laws.EncodedLength.b32dec a).symm
  | hmac key message =>
    obtain ⟨hk, hm⟩ := Bool.and_eq_true_iff.1 h
    have hlen := frameLength_hmac (blob message) ((blobFits_iff key).1 hk)
    rw [lengthField_blob ((blobFits_iff message).1 hm)] at hlen
    exact hlen.trans (Laws.EncodedLength.hmac key message).symm
  | derive secret t =>
    exact (congrArg (13 + ·) (lengthField_blob_append _ ((blobFits_iff secret).1 h))).trans
      (Laws.EncodedLength.derive secret t).symm
  | ctr t => exact (Laws.EncodedLength.ctr t).symm
  | trunc d => exact (Laws.EncodedLength.trunc d).symm
  | secrem t => exact (Laws.EncodedLength.secrem t).symm

/-! ### A frame whose length fits is the frame of a command (30_encoding.md R91) -/

/-- Bytes that reach as far as their length field says begin with a blob (30_encoding.md R82). -/
theorem exists_blob_append {r : List Byte} (h : 4 + lengthField r 0 ≤ r.length) :
    ∃ a r', r = blob a ++ r' ∧ a.length < 2 ^ 32 := by
  have hfield : lengthField r 0 = unbe (r.take 4) := by
    rw [lengthField, List.drop_zero, ← padRight_append r [] (by omega), List.append_nil]
  have hread : takeBlob r = .ok ((r.drop 4).take (unbe (r.take 4)), (r.drop 4).drop (unbe (r.take 4))) := by
    rw [takeBlob, if_neg (by omega), if_neg (by rw [List.length_drop]; omega)]
  exact ⟨_, _, takeBlob_ok hread⟩

theorem exists_blob {r : List Byte} (h : r.length = 4 + lengthField r 0) : ∃ a, r = blob a ∧ a.length < 2 ^ 32 := by
  obtain ⟨a, r', rfl, ha⟩ := exists_blob_append h.ge
  rw [lengthField_blob_append r' ha, List.length_append, length_blob] at h
  obtain rfl : r' = [] := List.length_eq_zero_iff.1 (by omega)
  exact ⟨a, List.append_nil _, ha⟩

/-- Any 8 bytes are a time field (30_encoding.md R89). -/
theorem exists_time {r : List Byte} (h : r.length = 8) : ∃ t : Word64, r = be t.toNat 8 :=
  ⟨timeOf ⟨r, h⟩, (be_timeOf ⟨r, h⟩).symm⟩

/-- The eight assigned opcodes (30_encoding.md R85). -/
theorem opcode_assigned {op : Byte} (h1 : 1 ≤ op.toNat) (h8 : op.toNat ≤ 8) :
    op = 0x01 ∨ op = 0x02 ∨ op = 0x03 ∨ op = 0x04 ∨ op = 0x05 ∨ op = 0x06 ∨ op = 0x07 ∨ op = 0x08 := by
  bv_omega

/-- A frame with an assigned opcode and the length its content determines is written by a command, one case for each
format's layout (30_encoding.md R84, R91; 40_hex_codec.md R128). -/
theorem exists_encode_of_length {op : Byte} {r : List Byte} (h1 : 1 ≤ op.toNat) (h8 : op.toNat ≤ 8)
    (hlen : r.length + 1 = frameLength (op :: r)) (hmax : op = 0x02 → lengthField r 0 ≤ 0x7FFFFFFF) :
    ∃ i : Instr, i.wf = true ∧ encode i = op :: r := by
  rcases opcode_assigned h1 h8 with rfl | rfl | rfl | rfl | rfl | rfl | rfl | rfl
  · change r.length + 1 = 5 + lengthField r 0 at hlen
    obtain ⟨a, rfl, ha⟩ := exists_blob (r := r) (by omega)
    exact ⟨.hex2b a, (blobFits_iff a).2 ha, rfl⟩
  · change r.length + 1 = 5 + lengthField r 0 at hlen
    obtain ⟨a, rfl, ha⟩ := exists_blob (r := r) (by omega)
    rw [lengthField_blob ha] at hmax
    exact ⟨.b2hex a, (wf_b2hex_iff a).2 (hmax rfl), rfl⟩
  · change r.length + 1 = 5 + lengthField r 0 at hlen
    obtain ⟨a, rfl, ha⟩ := exists_blob (r := r) (by omega)
    exact ⟨.b32dec a, (blobFits_iff a).2 ha, rfl⟩
  · have hfits : 4 + lengthField r 0 ≤ r.length := by
      change r.length + 1 = 9 + lengthField r 0 + _ at hlen
      omega
    obtain ⟨a, r', rfl, ha⟩ := exists_blob_append hfits
    rw [frameLength_hmac r' ha, List.length_append, length_blob] at hlen
    obtain ⟨b, rfl, hb⟩ := exists_blob (r := r') (by omega)
    exact ⟨.hmac a b, Bool.and_eq_true_iff.2 ⟨(blobFits_iff a).2 ha, (blobFits_iff b).2 hb⟩, rfl⟩
  · obtain ⟨t, rfl⟩ := exists_time (Nat.succ.inj hlen)
    exact ⟨.ctr t, rfl, rfl⟩
  · exact ⟨.trunc ⟨r, Nat.succ.inj hlen⟩, rfl, rfl⟩
  · change r.length + 1 = 13 + lengthField r 0 at hlen
    obtain ⟨a, r', rfl, ha⟩ := exists_blob_append (r := r) (by omega)
    rw [lengthField_blob_append r' ha, List.length_append, length_blob] at hlen
    obtain ⟨t, rfl⟩ := exists_time (r := r') (by omega)
    exact ⟨.derive a t, (blobFits_iff a).2 ha, rfl⟩
  · obtain ⟨t, rfl⟩ := exists_time (Nat.succ.inj hlen)
    exact ⟨.secrem t, rfl, rfl⟩

theorem opcode_pos (i : Instr) : 1 ≤ (opcode i).toNat := by
  cases i <;> simp [opcode]

/-- Settles O2: by O1 a frame is a command when it is the frame of one whose fields are in range; such a frame has the
length its content determines (`frameLength_encode`), and a frame of that length is one (`exists_encode_of_length`). -/
theorem frameParsesWhenItsLengthFits : Obligations.FrameParsesWhenItsLengthFits := by
  intro f
  rw [exists_parse_iff_exists_encode]
  constructor
  · rintro ⟨i, hw, rfl⟩
    refine ⟨List.cons_ne_nil _ _, opcode_pos i, Machine.opcode_le i, (frameLength_encode hw).symm, fun hop => ?_⟩
    cases i with
    | b2hex a =>
      have ha := (wf_b2hex_iff a).1 hw
      exact (lengthField_blob (by omega)).trans_le ha
    | hex2b | b32dec | hmac | ctr | trunc | derive | secrem => exact absurd hop (by simp [encode, opcode])
  · rintro ⟨hne, h1, h8, hlen, hmax⟩
    cases f with
    | nil => exact absurd rfl hne
    | cons op r => exact exists_encode_of_length h1 h8 hlen hmax

end Sys2Proof
end

section
/-! PROOFS. Frames of the spec, and the characters' values (30_encoding.md R84, R85, R95 to R99; 41_base32_decoder.md R144). -/

namespace Sys2Proof.Machine

/-- Settles O4: each frame is `encode` of a command whose fields are in range. -/
theorem specFramesDecode : Obligations.SpecFramesDecode := by
  refine ⟨?_, ?_, ?_, ?_, ?_, ?_, ?_, ?_⟩ <;> exact parse_of_encode rfl (by decide)

/-! ### Hex digits (30_encoding.md R95) -/

section
variable (u : Config.HexUpper) {c : Byte}

theorem hexval_decimal (h : 0x30 ≤ c.toNat ∧ c.toNat ≤ 0x39) : hexval u c = some (c.toNat - 0x30) :=
  if_pos h

theorem hexval_lower (h : 0x61 ≤ c.toNat ∧ c.toNat ≤ 0x66) : hexval u c = some (c.toNat - 0x61 + 10) := by
  unfold hexval
  rw [if_neg (by omega), if_pos h]

/-- `'A'` to `'F'` are digits where `HEX_UPPER` accepts them (00_scope.md R8). -/
theorem hexval_accept_upper (h : 0x41 ≤ c.toNat ∧ c.toNat ≤ 0x46) : hexval .accept c = some (c.toNat - 0x41 + 10) := by
  unfold hexval
  rw [if_neg (by omega), if_neg (by omega), if_pos h]

theorem hexval_reject_upper (h : 0x41 ≤ c.toNat ∧ c.toNat ≤ 0x46) : hexval .reject c = none := by
  unfold hexval
  rw [if_neg (by omega), if_neg (by omega), if_pos h]

theorem hexval_none
    (h : c.toNat < 0x30 ∨ 0x39 < c.toNat ∧ c.toNat < 0x41 ∨ 0x46 < c.toNat ∧ c.toNat < 0x61 ∨ 0x66 < c.toNat) :
    hexval u c = none := by
  unfold hexval
  rw [if_neg (by omega), if_neg (by omega), if_neg (by omega)]

end

/-- Settles O5: one lemma for each range of codes, two for the range that `HEX_UPPER` decides. -/
theorem hexDigitValues : Obligations.HexDigitValues := by
  refine fun u c => ⟨hexval_decimal u, hexval_lower u, fun h => ?_, hexval_none u⟩
  cases u with
  | accept => exact hexval_accept_upper h
  | reject => exact hexval_reject_upper h

/-! ### Base32 symbols and case folding (30_encoding.md R97 to R99) -/

/-- Settles O6: `b32val` and the alphabet compared on each of the 256 codes. -/
theorem base32SymbolIsItsAlphabetIndex : Obligations.Base32SymbolIsItsAlphabetIndex := by
  unfold Obligations.Base32SymbolIsItsAlphabetIndex
  decide

theorem upper_of_lower {c : Byte} (h : 0x61 ≤ c.toNat ∧ c.toNat ≤ 0x7A) : upper c = c - 0x20 := if_pos h

theorem upper_of_not_lower {c : Byte} (h : c.toNat < 0x61 ∨ 0x7A < c.toNat) : upper c = c := if_neg (by omega)

/-- A symbol is an upper-case letter or a digit `'2'` to `'7'` (30_encoding.md R97). -/
theorem range_of_b32val {c : Byte} {x : Nat} (h : b32val c = some x) :
    0x41 ≤ c.toNat ∧ c.toNat ≤ 0x5A ∨ 0x32 ≤ c.toNat ∧ c.toNat ≤ 0x37 := by
  by_contra hno
  rw [b32val, if_neg (by omega), if_neg (by omega)] at h
  cases h

/-- The decoder reads its argument through `upper` only (41_base32_decoder.md R144). -/
theorem decode_eq_of_map_upper_eq {a a' : List Byte} (h : a.map upper = a'.map upper) : decode a = decode a' := by
  rw [decode, decode, h]

/-- Settles O15: a lower-case letter is allowed as it is, and any other code is its own upper case, a symbol already. -/
theorem decodeIgnoresCase : Obligations.DecodeIgnoresCase := by
  refine ⟨fun _ => upper_of_lower, fun _ => upper_of_not_lower, fun c x h => ?_, fun _ _ => decode_eq_of_map_upper_eq⟩
  by_cases hc : 0x61 ≤ c.toNat ∧ c.toNat ≤ 0x7A
  · exact .inr (.inl hc)
  · rw [upper_of_not_lower (by omega)] at h
    exact (range_of_b32val h).imp_right .inr

end Sys2Proof.Machine
end

section
/-! PROOFS. The form and the length of the response to every frame (30_encoding.md R85, R87). -/

namespace Sys2Proof.Machine

/-- A response that is an error: its status byte alone (60_exceptions.md R245). -/
theorem errorFrame_form {status : Byte} (h : status ≠ 0x00) (P : List Byte → Prop) :
    ∃ (st : Byte) (payload : List Byte), errorFrame status = st :: payload ∧ (st ≠ 0x00 → payload = []) ∧
      (st = 0x00 → P payload) :=
  ⟨status, [], rfl, fun _ => rfl, fun h0 => absurd h0 h⟩

/-- A success response: status `00` and its payload (30_encoding.md R87). -/
theorem okFrame_form {payload : List Byte} {P : List Byte → Prop} (h : P payload) :
    ∃ (st : Byte) (p : List Byte), okFrame payload = st :: p ∧ (st ≠ 0x00 → p = []) ∧ (st = 0x00 → P p) :=
  ⟨0x00, payload, rfl, fun h0 => absurd rfl h0, fun _ => h⟩

theorem commandStatus_ne_zero (e : CommandError) : commandStatus e ≠ 0x00 := by
  cases e <;> decide

theorem length_okFrame {payload : List Byte} {n : Nat} (h : payload.length = n) : (okFrame payload).length = n + 1 :=
  congrArg (· + 1) h

/-- Settles O37: each command's response is an `okFrame` or an `errorFrame`; the lengths are those of `blob` and `be`. -/
theorem responsesHaveTheirForm : Obligations.ResponsesHaveTheirForm := by
  intro sha1 u f
  refine ⟨fun e h => ?_, fun i h => ?_⟩
  · simp only [respondTo, h]
    cases e <;> rfl
  · simp only [respondTo, h]
    cases i with
    | hex2b a =>
      cases hb : hexToBytes u a with
      | error e =>
        simp only [responseTo, hb]
        exact errorFrame_form (commandStatus_ne_zero e) _
      | ok b =>
        have hlen := length_of_hexToBytes u hb
        simp only [responseTo, hb]
        exact okFrame_form ⟨⟨b, rfl, rfl⟩, (length_okFrame (length_blob b)).trans (by omega)⟩
    | b2hex a =>
      have hlen := length_bytesToHex a
      exact okFrame_form ⟨rfl, (length_okFrame (length_blob _)).trans (by omega)⟩
    | b32dec a =>
      cases hk : decode a with
      | error e =>
        simp only [responseTo, hk]
        exact errorFrame_form (commandStatus_ne_zero e) _
      | ok key =>
        simp only [responseTo, hk]
        exact okFrame_form ⟨⟨key, rfl, rfl⟩, length_okFrame (length_bytes _)⟩
    | hmac key message => exact okFrame_form ⟨rfl, length_okFrame (length_bytes _)⟩
    | ctr t => exact okFrame_form ⟨rfl, length_okFrame (length_be _ _)⟩
    | trunc d => exact okFrame_form ⟨rfl, length_okFrame (length_be _ _)⟩
    | derive secret t =>
      cases hc : deriveCode sha1 u secret t with
      | error e =>
        simp only [responseTo, hc]
        exact errorFrame_form (commandStatus_ne_zero e) _
      | ok code =>
        simp only [responseTo, hc]
        exact okFrame_form ⟨⟨code, rfl, rfl⟩, length_okFrame (length_be _ _)⟩
    | secrem t => exact okFrame_form ⟨rfl, length_okFrame (length_be _ _)⟩

end Sys2Proof.Machine
end

section
/-! PROOFS. The hex/byte codec: HEX2B, B2HEX and their round trips (40_hex_codec.md R120 to R127). -/

namespace Sys2Proof.Machine

/-! ### Text to bytes (40_hex_codec.md R120, R121) -/

/-- Two digits and the rest of the text make one byte and the rest of the result (R120). -/
theorem hexToBytes_cons_cons_ok_iff {u : Config.HexUpper} {c d : Byte} {h b : List Byte} :
    hexToBytes u (c :: d :: h) = .ok b ↔
      ∃ x y b', hexval u c = some x ∧ hexval u d = some y ∧ hexToBytes u h = .ok b' ∧
        b = BitVec.ofNat 8 (16 * x + y) :: b' := by
  constructor
  · intro e
    unfold hexToBytes at e
    split at e
    · next x y b' hx hy hb =>
      cases e
      exact ⟨x, y, b', hx, hy, hb, rfl⟩
    · cases e
  · rintro ⟨x, y, b', hx, hy, hb, rfl⟩
    simp only [hexToBytes, hx, hy, hb]

/-- Exactly the texts of even length whose characters are all hex digits have a value (R120). -/
theorem exists_hexToBytes_ok_iff (u : Config.HexUpper) : ∀ h : List Byte,
    (∃ b, hexToBytes u h = .ok b) ↔ h.length % 2 = 0 ∧ ∀ c ∈ h, ∃ x, hexval u c = some x
  | [] => by simp [hexToBytes]
  | [_] => by simp [hexToBytes]
  | c :: d :: h => by
    have ih := exists_hexToBytes_ok_iff u h
    have hlen : (c :: d :: h).length % 2 = h.length % 2 := Nat.add_mod_right _ 2
    simp only [hexToBytes_cons_cons_ok_iff, hlen, List.forall_mem_cons]
    constructor
    · rintro ⟨_, x, y, b, hx, hy, hb, rfl⟩
      obtain ⟨heven, hall⟩ := ih.1 ⟨b, hb⟩
      exact ⟨heven, ⟨x, hx⟩, ⟨y, hy⟩, hall⟩
    · rintro ⟨heven, ⟨x, hx⟩, ⟨y, hy⟩, hall⟩
      obtain ⟨b, hb⟩ := ih.2 ⟨heven, hall⟩
      exact ⟨_, x, y, b, hx, hy, hb, rfl⟩

/-- The number of two hex digits fits a byte (30_encoding.md R95). -/
theorem toNat_ofNat_digits {x y : Nat} (hx : x < 16) (hy : y < 16) :
    (BitVec.ofNat 8 (16 * x + y)).toNat = 16 * x + y := by
  rw [BitVec.toNat_ofNat, Nat.mod_eq_of_lt (by omega)]

/-- Byte `i` of the result is the number of the digits at `2i` and `2i + 1` (R120). -/
theorem toNat_getD_of_hexToBytes (u : Config.HexUpper) : ∀ {h b : List Byte}, hexToBytes u h = .ok b →
    ∀ i < b.length, ∃ x y, hexval u (h.getD (2 * i) 0) = some x ∧ hexval u (h.getD (2 * i + 1) 0) = some y ∧
      (b.getD i 0).toNat = 16 * x + y
  | [], _, e, _, hi => by cases e; cases hi
  | [_], _, e, _, _ => by cases e
  | _ :: _ :: _, _, e, i, hi => by
    obtain ⟨x, y, b, hx, hy, hb, rfl⟩ := hexToBytes_cons_cons_ok_iff.1 e
    cases i with
    | zero => exact ⟨x, y, hx, hy, toNat_ofNat_digits (hexval_lt hx) (hexval_lt hy)⟩
    | succ i => exact toNat_getD_of_hexToBytes u hb i (Nat.lt_of_succ_lt_succ hi)

/-- Settles O10: which texts have a value (`exists_hexToBytes_ok_iff`), and that value byte by byte. -/
theorem hex2bConvertsPairsOfDigits : Obligations.Hex2bConvertsPairsOfDigits := by
  refine ⟨fun a => rfl, fun a s heven hall => ?_, fun a s hbad => ?_⟩
  · obtain ⟨b, hb, hx⟩ | ⟨he, -⟩ := execHex2b_cases a s
    · have hlen := length_of_hexToBytes _ hb
      exact ⟨b, by omega, toNat_getD_of_hexToBytes _ hb, hx⟩
    · obtain ⟨b, hb⟩ := (exists_hexToBytes_ok_iff _ a).2 ⟨heven, hall⟩
      cases he.symm.trans hb
  · obtain ⟨b, hb, -⟩ | ⟨-, hx⟩ := execHex2b_cases a s
    · obtain ⟨heven, hall⟩ := (exists_hexToBytes_ok_iff _ a).1 ⟨b, hb⟩
      obtain hodd | ⟨c, hc, hnone⟩ := hbad
      · omega
      · obtain ⟨x, hx⟩ := hall c hc
        cases hnone.symm.trans hx
    · exact hx

/-! ### Bytes to text (40_hex_codec.md R125, R126) -/

/-- A byte's text is the digits of its quotient and remainder by 16 (R125). -/
theorem bytesToHex_cons (x : Byte) (b : List Byte) :
    bytesToHex (x :: b) = hexdigit (x.toNat / 16) :: hexdigit (x.toNat % 16) :: bytesToHex b := by
  have hhigh : (x >>> 4).toNat = x.toNat / 16 := by rw [BitVec.toNat_ushiftRight, Nat.shiftRight_eq_div_pow]
  have hlow : (x &&& 0x0F).toNat = x.toNat % 16 := by
    rw [BitVec.toNat_and]
    exact Nat.and_two_pow_sub_one_eq_mod _ 4
  rw [bytesToHex, hhigh, hlow]

/-- `hexdigit` is the table of lower-case digits (30_encoding.md R96). -/
theorem hexdigit_eq_getD : ∀ n < 16, hexdigit n = (ascii "0123456789abcdef").getD n 0 := by decide

/-- Characters `2i` and `2i + 1` of the text are the digits of byte `i`, high nibble first (R125). -/
theorem getD_bytesToHex (b : List Byte) : ∀ i < b.length,
    (bytesToHex b).getD (2 * i) 0 = hexdigit ((b.getD i 0).toNat / 16) ∧
    (bytesToHex b).getD (2 * i + 1) 0 = hexdigit ((b.getD i 0).toNat % 16) := by
  induction b with
  | nil => nofun
  | cons x b ih =>
    intro i hi
    rw [bytesToHex_cons]
    cases i with
    | zero => exact ⟨rfl, rfl⟩
    | succ i => exact ih i (Nat.lt_of_succ_lt_succ hi)

/-- Settles O11: the text has two characters a byte, which `hexdigit` takes from the table of lower-case digits. -/
theorem b2hexRendersTwoDigitsPerByte : Obligations.B2hexRendersTwoDigitsPerByte := by
  refine fun a s => ⟨rfl, bytesToHex a, length_bytesToHex a, fun i hi => ?_, rfl⟩
  obtain ⟨hhigh, hlow⟩ := getD_bytesToHex a i hi
  have hbyte := (a.getD i 0).isLt
  rw [hhigh, hlow, hexdigit_eq_getD _ (by omega), hexdigit_eq_getD _ (by omega)]
  exact ⟨rfl, rfl⟩

/-! ### Round trips (40_hex_codec.md R127) -/

/-- A hex digit in lower case: `'A'` to `'F'` become `'a'` to `'f'` (R127). -/
def lowerDigit (c : Byte) : Byte := if 0x41 ≤ c.toNat ∧ c.toNat ≤ 0x46 then c + 0x20 else c

/-- The digit of a hex digit's value is that digit in lower case, on each of the 256 codes (30_encoding.md R95, R96). -/
theorem hexdigit_of_hexval (u : Config.HexUpper) (c : Byte) : ∀ x ∈ hexval u c, hexdigit x = lowerDigit c := by
  revert c
  cases u <;> decide

/-- The text of a text's bytes is that text in lower case, under either value of `HEX_UPPER` (R127). -/
theorem bytesToHex_of_hexToBytes (u : Config.HexUpper) : ∀ {h b : List Byte}, hexToBytes u h = .ok b →
    bytesToHex b = h.map lowerDigit
  | [], _, e => by cases e; rfl
  | [_], _, e => by cases e
  | c :: d :: h, _, e => by
    obtain ⟨x, y, b, hx, hy, hb, rfl⟩ := hexToBytes_cons_cons_ok_iff.1 e
    have hylt := hexval_lt hy
    have hhigh : (16 * x + y) / 16 = x := by omega
    have hlow : (16 * x + y) % 16 = y := by omega
    rw [bytesToHex_cons, toNat_ofNat_digits (hexval_lt hx) hylt, hhigh, hlow, hexdigit_of_hexval u c x hx,
      hexdigit_of_hexval u d y hy, bytesToHex_of_hexToBytes u hb, List.map_cons, List.map_cons]

/-- Settles O12: bytes to text and back, then text to bytes and back, where a text without upper-case letters is its own
lower case. -/
theorem hexCodecRoundTrips : Obligations.HexCodecRoundTrips := by
  refine ⟨hexToBytes_bytesToHex, fun u h b hb hno => ?_, fun h b hb => bytesToHex_of_hexToBytes .accept hb⟩
  have hlower : ∀ c ∈ h, lowerDigit c = c := fun c hc => if_neg fun hup => hno c hc (by omega)
  rw [bytesToHex_of_hexToBytes u hb, List.map_congr_left hlower, List.map_id']

end Sys2Proof.Machine
end

section
/-! PROOFS. The base32 secret decoder: the characters as the five-bit digits of the key's number, and what follows for
bits, groups and the bijection (41_base32_decoder.md R140 to R143, R147). -/

namespace Sys2Proof.Machine

/-! ### The key's number and its base32 digits (41_base32_decoder.md R140) -/

/-- The text makes a number exactly when all its characters are symbols. -/
theorem exists_b32Number_iff (u : List Byte) : ∀ v : Nat,
    (∃ w, b32Number v u = some w) ↔ ∀ c ∈ u, ∃ x, b32val c = some x := by
  induction u with
  | nil => simp [b32Number]
  | cons c u ih =>
    intro v
    cases hc : b32val c <;> simp [b32Number, hc, ih]

/-- The number is `w` exactly when the characters are the last base32 digits of `w` and `v` stands before them. -/
theorem b32Number_eq_some_iff (u : List Byte) : ∀ v w : Nat, b32Number v u = some w ↔
    w >>> (5 * u.length) = v ∧
      ∀ i < u.length, b32val (u.getD i 0) = some (w >>> (5 * (u.length - 1 - i)) % 2 ^ 5) := by
  induction u with
  | nil => simp [b32Number, eq_comm]
  | cons c u ih =>
    intro v w
    have hshift : w >>> (5 * (u.length + 1)) = w >>> (5 * u.length) >>> 5 := Nat.shiftRight_add w (5 * u.length) 5
    simp only [List.length_cons, Nat.forall_lt_succ_left, List.getD_cons_zero, List.getD_cons_succ,
      Nat.add_sub_cancel, Nat.sub_zero, hshift, Nat.sub_sub, Nat.add_comm 1, ← and_assoc] at ih ⊢
    cases hc : b32val c with
    | none => simp [b32Number, hc]
    | some x =>
      have hx := b32val_lt hc
      simp only [b32Number, hc, ih, Config.b32Bits, Option.some.injEq]
      refine and_congr_left fun _ => ?_
      -- `x` is below 32: quotient `v` and remainder `x` by 32 are one number, `v * 32 + x`
      omega

/-- The key is `be(V, 20)` of the number `V` of the 32 characters (R140). -/
theorem decode_eq_ok_iff_b32Number {a : List Byte} {key : Digest} :
    decode a = .ok key ↔ a.length = 32 ∧ ∃ w, b32Number 0 (a.map upper) = some w ∧ beBytes 20 w = key := by
  by_cases hlen : a.length = 32
  · cases h : b32Number 0 (a.map upper) <;> simp [decode, Config.secretLen, hlen, h]
  · simp [decode, Config.secretLen, hlen]

/-- `decode` succeeds exactly on 32 characters that are symbols after case folding. -/
theorem exists_decode_ok_iff (a : List Byte) :
    (∃ key, decode a = .ok key) ↔ a.length = 32 ∧ ∀ c ∈ a, ∃ x, b32val (upper c) = some x := by
  have hsym := exists_b32Number_iff (a.map upper) 0
  rw [List.forall_mem_map] at hsym
  rw [← hsym]
  constructor
  · rintro ⟨key, hk⟩
    obtain ⟨hlen, w, hw, -⟩ := decode_eq_ok_iff_b32Number.1 hk
    exact ⟨hlen, w, hw⟩
  · rintro ⟨hlen, w, hw⟩
    exact ⟨_, decode_eq_ok_iff_b32Number.2 ⟨hlen, w, hw, rfl⟩⟩

/-- `be` is the inverse of `unbe` on a byte register (00_scope.md R11). -/
theorem be_unbe_bytes {n : Nat} (b : Bytes n) : be (unbe b.val) n = b.val := by
  simpa using be_unbe b.val

/-- A number below `256 ^ n` is the number of its `n` bytes and of no others (00_scope.md R11). -/
theorem beBytes_eq_iff {n w : Nat} (hw : w < 256 ^ n) {b : Bytes n} : beBytes n w = b ↔ w = unbe b.val := by
  constructor
  · rintro rfl
    exact (unbe_be_of_lt hw).symm
  · rintro rfl
    exact Subtype.ext (be_unbe_bytes b)

/-- `decode` in one line: character `i` of 32 is digit `i` of the key's number, written in base 32. -/
theorem decode_eq_ok_iff {a : List Byte} {key : Digest} :
    decode a = .ok key ↔ a.length = 32 ∧
      ∀ i < 32, b32val (upper (a.getD i 0)) = some (unbe key.val >>> (5 * (32 - 1 - i)) % 2 ^ 5) := by
  have hfold (i : Nat) : (a.map upper).getD i 0 = upper (a.getD i 0) := List.getD_map a 0 upper
  have htop (w : Nat) : w >>> (5 * 32) = 0 ↔ w < 256 ^ 20 := by
    rw [Nat.shiftRight_eq_div_pow, Nat.div_eq_zero_iff]; norm_num
  rw [decode_eq_ok_iff_b32Number]
  refine and_congr_right fun hlen => ?_
  simp only [b32Number_eq_some_iff, List.length_map, hlen, hfold, htop]
  constructor
  · rintro ⟨w, ⟨hw, hdigits⟩, hkey⟩
    rwa [(beBytes_eq_iff hw).1 hkey] at hdigits
  · intro hdigits
    have hw : unbe key.val < 256 ^ 20 := by simpa using unbe_lt key.val
    exact ⟨_, ⟨hw, hdigits⟩, (beBytes_eq_iff hw).2 rfl⟩

/-! ### Bits and bytes of the key (41_base32_decoder.md R142, R143) -/

/-- Bit `k` from the top of a number of `m` digits, each of `n` bits, is bit `k % n` from the top of digit `k / n`. -/
theorem testBit_digit (w : Nat) {n m k : Nat} (hn : 0 < n) (hk : k < n * m) :
    (w >>> (n * (m - 1 - k / n)) % 2 ^ n).testBit (n - 1 - k % n) = w.testBit (n * m - 1 - k) := by
  have hmod := Nat.mod_lt k hn
  obtain ⟨r, hr⟩ := Nat.exists_eq_add_of_lt (Nat.div_lt_of_lt_mul hk)
  have hsize : n * m = n * (k / n) + n * r + n := by rw [hr]; ring
  have hrest : m - 1 - k / n = r := by omega
  have hpos : n * r + (n - 1 - k % n) = n * m - 1 - k := by have := Nat.div_add_mod k n; omega
  rw [Nat.testBit_mod_two_pow, Nat.testBit_shiftRight, hrest, hpos, decide_eq_true (by omega), Bool.true_and]

/-- Byte `i` of a byte register is digit `i` of its number, written in base 256 (00_scope.md R11). -/
theorem toNat_getD_bytes {n i : Nat} (b : Bytes n) (h : i < n) :
    (b.val.getD i 0).toNat = unbe b.val >>> (8 * (n - 1 - i)) % 2 ^ 8 := by
  simpa [be_unbe_bytes] using toNat_getD_be (unbe b.val) h

/-- Settles O13: bit `k` of the key, read in its byte or in its character, is the same bit of the key's number. -/
theorem b32decConcatenatesFiveBitValues : Obligations.B32decConcatenatesFiveBitValues := by
  refine ⟨fun a => rfl, fun a s hlen hsym => ?_, fun a s hbad => ?_⟩
  · obtain ⟨key, hk, hx⟩ | ⟨he, -⟩ := execB32dec_cases a s
    · refine ⟨key, fun k hlt => ?_, hx⟩
      obtain ⟨-, hdigits⟩ := decode_eq_ok_iff.1 hk
      rw [← BitVec.testBit_toNat, toNat_getD_bytes key (by omega), hdigits _ (by omega), Option.getD_some]
      exact (testBit_digit _ (n := 8) (m := 20) (by decide) hlt).trans
        (testBit_digit _ (n := 5) (m := 32) (by decide) hlt).symm
    · obtain ⟨key, hk⟩ := (exists_decode_ok_iff a).2 ⟨hlen, hsym⟩
      cases he.symm.trans hk
  · obtain ⟨key, hk, -⟩ | ⟨-, hx⟩ := execB32dec_cases a s
    · obtain ⟨hlen, hsym⟩ := (exists_decode_ok_iff a).1 ⟨key, hk⟩
      obtain hne | ⟨c, hc, hnone⟩ := hbad
      · exact absurd hlen hne
      · obtain ⟨x, hx⟩ := hsym c hc
        cases hnone.symm.trans hx
    · exact hx

/-- Fields that do not overlap are put together by addition. -/
theorem shiftLeft_or_of_lt {x y n : Nat} (h : y < 2 ^ n) : x <<< n ||| y = x * 2 ^ n + y := by
  rw [← Nat.shiftLeft_add_eq_or_of_lt h, Nat.shiftLeft_eq]

/-- A mask of `n` ones keeps the low `n` bits. -/
theorem and_mask {x n m : Nat} (h : m = 2 ^ n - 1) : x &&& m = x % 2 ^ n :=
  h ▸ Nat.and_two_pow_sub_one_eq_mod x n

/-- Settles O14: a group's symbols and its bytes are digits of the same 40 bits, in base 32 and in base 256. -/
theorem decodeGivesFiveBytesPerGroup : Obligations.DecodeGivesFiveBytesPerGroup := by
  intro a key g hg hk v byte
  obtain ⟨-, hdigits⟩ := decode_eq_ok_iff.1 hk
  have hv : ∀ j < 8, v j = unbe key.val >>> (40 * (3 - g)) >>> (5 * (7 - j)) % 2 ^ 5 := fun j hj => by
    have hpos : 5 * (32 - 1 - (8 * g + j)) = 40 * (3 - g) + 5 * (7 - j) := by omega
    rw [← Nat.shiftRight_add, ← hpos]
    exact congrArg (Option.getD · 0) (hdigits _ (by omega))
  have hbyte : ∀ j < 5, byte j = unbe key.val >>> (40 * (3 - g)) >>> (8 * (4 - j)) % 2 ^ 8 := fun j hj => by
    have hpos : 8 * (20 - 1 - (5 * g + j)) = 40 * (3 - g) + 8 * (4 - j) := by omega
    rw [← Nat.shiftRight_add, ← hpos]
    exact toNat_getD_bytes key (by omega)
  generalize unbe key.val >>> (40 * (3 - g)) = w at hv hbyte
  simp only [hv, hbyte, Nat.reduceLT, and_mask (n := 2) (m := 3) rfl, and_mask (n := 4) (m := 15) rfl,
    and_mask (n := 1) (m := 1) rfl, and_mask (n := 3) (m := 7) rfl, Nat.or_assoc]
  refine ⟨?_, ?_, ?_, ?_, ?_⟩
  · rw [shiftLeft_or_of_lt (by omega)]; omega
  · rw [shiftLeft_or_of_lt (n := 1) (by omega), shiftLeft_or_of_lt (by omega)]; omega
  · rw [shiftLeft_or_of_lt (by omega)]; omega
  · rw [shiftLeft_or_of_lt (n := 2) (by omega), shiftLeft_or_of_lt (by omega)]; omega
  · rw [shiftLeft_or_of_lt (by omega)]; omega

/-! ### The bijection (41_base32_decoder.md R147) -/

/-- The symbol of a value in 0..31 (30_encoding.md R97). -/
def symbol (x : Nat) : Byte := Config.alphabet.getD x 0

theorem symbol_mem : ∀ x < 32, symbol x ∈ Config.alphabet := by decide

theorem b32val_upper_symbol : ∀ x < 32, b32val (upper (symbol x)) = some x := by decide

theorem symbol_of_b32val_upper : ∀ c ∈ Config.alphabet, ∀ x ∈ b32val (upper c), symbol x = c := by decide

/-- The secret of a key: the symbols of the base32 digits of its number (R147 (b)). -/
def secretOf (key : Digest) : List Byte :=
  (List.range 32).map fun i => symbol (unbe key.val >>> (5 * (32 - 1 - i)) % 2 ^ 5)

@[simp] theorem length_secretOf (key : Digest) : (secretOf key).length = 32 := by simp [secretOf]

theorem getD_secretOf (key : Digest) {i : Nat} (hi : i < 32) :
    (secretOf key).getD i 0 = symbol (unbe key.val >>> (5 * (32 - 1 - i)) % 2 ^ 5) := by
  simp [secretOf, List.getD, hi]

theorem mem_alphabet_of_mem_secretOf {key : Digest} {c : Byte} (hc : c ∈ secretOf key) : c ∈ Config.alphabet := by
  obtain ⟨i, -, rfl⟩ := List.mem_map.1 hc
  exact symbol_mem _ (Nat.mod_lt _ (by decide))

theorem decode_secretOf (key : Digest) : decode (secretOf key) = .ok key := by
  refine decode_eq_ok_iff.2 ⟨length_secretOf key, fun i hi => ?_⟩
  rw [getD_secretOf key hi]
  exact b32val_upper_symbol _ (Nat.mod_lt _ (by decide))

/-- An upper-case secret is the one its key determines. -/
theorem eq_secretOf_of_decode {a : List Byte} {key : Digest} (hsym : ∀ c ∈ a, c ∈ Config.alphabet)
    (hk : decode a = .ok key) : a = secretOf key := by
  obtain ⟨hlen, hdigits⟩ := decode_eq_ok_iff.1 hk
  refine List.ext_getElem (hlen.trans (length_secretOf key).symm) fun i hi hi' => ?_
  rw [← List.getD_eq_getElem a 0 hi, ← List.getD_eq_getElem _ 0 hi', getD_secretOf key (hlen ▸ hi)]
  refine (symbol_of_b32val_upper _ (hsym _ ?_) _ (hdigits i (hlen ▸ hi))).symm
  rw [List.getD_eq_getElem a 0 hi]
  exact List.getElem_mem hi

/-- Settles O16: the secret of a key decodes to it, and is the only one that does. -/
theorem decodeIsABijection : Obligations.DecodeIsABijection := fun key =>
  ⟨secretOf key, ⟨length_secretOf key, fun _ => mem_alphabet_of_mem_secretOf, decode_secretOf key⟩,
    fun _ ⟨_, hsym, hk⟩ => eq_secretOf_of_decode hsym hk⟩

end Sys2Proof.Machine
end

section
/-! PROOFS. The HMAC command from its frame to its response, and keys with the same block key (42_hmac_engine.md R160,
R161, R163). -/

namespace Sys2Proof

/-- A zero byte that still fits is one of the padding (42_hmac_engine.md R160 step 2). -/
theorem padRight_append_zero {n : Nat} {b : List Byte} (h : b.length < n) : padRight n (b ++ [0]) = padRight n b := by
  have hone : (b ++ [0]).length ≤ n := by simpa using h
  have hzeros : n - b.length = (n - (b ++ [0]).length) + 1 := by
    rw [List.length_append, List.length_singleton]; omega
  apply Subtype.ext
  rw [val_padRight hone, val_padRight h.le, hzeros, List.replicate_succ, List.append_assoc, List.singleton_append]

namespace Machine

/-! ### The block key (42_hmac_engine.md R160, R163) -/

theorem val_blockKey_of_short (sha1 : Frame → Digest) {key : List Byte} (h : key.length ≤ 64) :
    (blockKey sha1 key).val = key ++ List.replicate (64 - key.length) 0 := by
  rw [blockKey_of_short sha1 h, val_padRight h]

theorem val_blockKey_of_long (sha1 : Frame → Digest) {key : List Byte} (h : 64 < key.length) :
    (blockKey sha1 key).val = (sha1 key).val ++ List.replicate 44 0 := by
  have hlen : (sha1 key).val.length = 20 := length_bytes _
  rw [blockKey_of_long sha1 h, val_blockKey_of_short sha1 (by omega), hlen]

/-- The digest depends on the key only through its block key. -/
theorem hmac_eq_of_blockKey_eq {sha1 : Frame → Digest} {key key' : List Byte} (message : List Byte)
    (h : blockKey sha1 key = blockKey sha1 key') : hmac sha1 key message = hmac sha1 key' message := by
  rw [hmac, hmac, innerHash, innerHash, h]

/-- Settles O23: in both items the two keys have one block key, the padded hash or the padded key. -/
theorem keysWithTheSameBlockKeyAgree : Obligations.KeysWithTheSameBlockKeyAgree := by
  refine fun sha1 key message => ⟨hmac_of_long sha1 message, fun h => hmac_eq_of_blockKey_eq message ?_⟩
  have hone : (key ++ [0]).length ≤ 64 := by simpa using h
  rw [blockKey_of_short sha1 h.le, blockKey_of_short sha1 hone, padRight_append_zero h]

/-! ### From the frame to the response (42_hmac_engine.md R161) -/

/-- The frame of a command, presented to an idle block, is answered as the big-step view says (00_scope.md R18). -/
theorem runs_presented {s : State} {f : Frame} {rest : List Frame} {sha1 : Frame → Digest} {i : Instr}
    (hs : s.Presented f rest) (hc : s.collaborator.Computes sha1) (hi : parse f = .ok i) :
    Runs (execTransitions i + 1) s
      (s.answered sha1 f rest (requestsOf sha1 s.hexUpper i) (responseTo sha1 s.hexUpper i)) := by
  have hidle : s.cleared = s := hs.idle
  have hr := runs_frame ⟨hs.no_reset, hs.ready, hc⟩ (congrArg State.phase hidle).symm hs.port
  simpa only [frameTransitions, respondTo, hi, hidle] using hr

/-- Settles O22: `K` is the block key, and with it the requests and the digest are those of the big-step view. -/
theorem hmacCommandRunsToItsResponse : Obligations.HmacCommandRunsToItsResponse := by
  intro s f rest sha1 key message hs hc hi
  refine ⟨(encode_of_parse hi).symm, blockKey sha1 key, val_blockKey_of_long sha1, val_blockKey_of_short sha1, ?_⟩
  have hn : execTransitions (.hmac key message) + 1 = if 64 < key.length then 6 else 5 :=
    apply_ite (· + 1) (64 < key.length) 5 4
  exact hn ▸ runs_presented hs hc hi

end Machine

end Sys2Proof
end

section
/-! PROOFS. The window counter, the seconds left of the window, and CTR and SECREM, which return them
(43_totp_deriver.md R180 to R183, R196 to R198). -/

namespace Sys2Proof.Machine

/-! ### The counter (43_totp_deriver.md R180, R183) -/

/-- The two-step division is one by 30000 (R180). -/
theorem counter_eq_div (t : Nat) : counter t = t / 30000 := Nat.div_div_eq_div_mul t 1000 30

/-- What CTR does (R181): the counter fits `CNT`, so the result has its bytes. -/
theorem execCtr_eq (t : Word64) (s : State) :
    execCtr t s = .next (State.complete (be (counter t.toNat) 8)
      { s.latch (.ctr t) with cnt := BitVec.ofNat 64 (counter t.toNat) }) := by
  simp only [execCtr, latch_now, operandT, toNat_counter]

/-- Settles O24: `CNT` holds the counter (`toNat_counter`), which is the quotient by 30000. -/
theorem ctrReturnsTheCounter : Obligations.CtrReturnsTheCounter := fun t s =>
  ⟨rfl, BitVec.ofNat 64 (counter t.toNat), toNat_counter t, (toNat_counter t).trans (counter_eq_div _), execCtr_eq t s⟩

/-- Settles O25: the counter is a quotient of a number below `2^64`, and division keeps the order. -/
theorem counterIsBoundedAndMonotone : Obligations.CounterIsBoundedAndMonotone := by
  intro t t'
  have ht := t.isLt
  rw [counter_eq_div, counter_eq_div]
  exact ⟨by omega, fun h => Nat.div_le_div_right h⟩

/-! ### The seconds left of the window (43_totp_deriver.md R196) -/

theorem secondsRemaining_eq (t : Nat) : secondsRemaining t = 30 - t / 1000 % 30 := rfl

/-- The range of R196. -/
theorem secondsRemaining_range (t : Nat) : 1 ≤ secondsRemaining t ∧ secondsRemaining t ≤ 30 := by
  rw [secondsRemaining_eq]
  omega

/-- Settles O26: the seconds are in 1..30, so they fit the one byte of the result. -/
theorem secremReturnsOneToThirty : Obligations.SecremReturnsOneToThirty := by
  intro t s
  obtain ⟨hpos, hle⟩ := secondsRemaining_range t.toNat
  have hb : (BitVec.ofNat 8 (secondsRemaining t.toNat)).toNat = secondsRemaining t.toNat :=
    BitVec.toNat_eq_nat.2 ⟨by omega, rfl⟩
  exact ⟨rfl, _, hb, hb.symm ▸ hpos, hb.symm ▸ hle, rfl⟩

/-- Settles O27: quotient and remainder of the seconds by 30. -/
theorem secondsAreCounterAndRemainder : Obligations.SecondsAreCounterAndRemainder := by
  intro t
  have hc : counter t.toNat = t.toNat / 1000 / 30 := rfl
  rw [hc, secondsRemaining_eq]
  omega

end Sys2Proof.Machine
end

section
/-! PROOFS. The dynamic truncation and TRUNC (43_totp_deriver.md R184 to R186). -/

namespace Sys2Proof.Machine

/-! ### Offset and window (43_totp_deriver.md R184) -/

/-- A byte of the window is a byte of the digest (20_memory.md R64). -/
theorem windowByte_eq_getD (d : Digest) (o : BitVec 4) (i : Fin 4) :
    windowByte d o i = d.val.getD (o.toNat + i.val) 0 :=
  (List.getD_eq_getElem d.val 0 _).symm

/-- The offset is the low nibble of the last byte. -/
theorem toNat_offsetOf (d : Digest) : (offsetOf d).toNat = (d.val.getD 19 0).toNat % 16 := by
  have hlast : 19 < d.val.length := by simp
  have hmask : Config.offsetMask.toNat = 2 ^ 4 - 1 := rfl
  rw [offsetOf, BitVec.toNat_setWidth, BitVec.toNat_and, and_mask hmask, List.getD_eq_getElem _ _ hlast]
  exact Nat.mod_mod _ _

/-- A byte shifted inside a word loses nothing. -/
theorem toNat_setWidth_shiftLeft (b : Byte) {k : Nat} (hk : k ≤ 24) :
    (b.setWidth 32 <<< k).toNat = b.toNat <<< k := by
  have hlt : b.toNat <<< k < 2 ^ (8 + k) := by
    rw [Nat.shiftLeft_eq, pow_add]
    exact Nat.mul_lt_mul_of_pos_right b.isLt (Nat.two_pow_pos k)
  have hle : 2 ^ (8 + k) ≤ 2 ^ 32 := Nat.pow_le_pow_right (by decide) (by omega)
  rw [BitVec.toNat_shiftLeft, BitVec.toNat_setWidth_of_le (by decide), Nat.mod_eq_of_lt (hlt.trans_le hle)]

/-- Four bytes in disjoint bit ranges: `|` equals `+`. -/
theorem or_byte_fields (w : Nat) {x y z : Nat} (hx : x < 2 ^ 8) (hy : y < 2 ^ 8) (hz : z < 2 ^ 8) :
    w <<< 24 ||| x <<< 16 ||| y <<< 8 ||| z = w * 2 ^ 24 + x * 2 ^ 16 + y * 2 ^ 8 + z := by
  rw [Nat.or_assoc, Nat.or_assoc, shiftLeft_or_of_lt (n := 8) hz, shiftLeft_or_of_lt (n := 16) (by omega),
    shiftLeft_or_of_lt (n := 24) (by omega)]
  omega

/-- `binCode` as a sum. -/
theorem toNat_binCodeOf (d : Digest) (o : BitVec 4) :
    (binCodeOf d o).toNat = (d.val.getD o.toNat 0).toNat % 128 * 2 ^ 24 + (d.val.getD (o.toNat + 1) 0).toNat * 2 ^ 16
      + (d.val.getD (o.toNat + 2) 0).toNat * 2 ^ 8 + (d.val.getD (o.toNat + 3) 0).toNat := by
  have hmask : Config.signMask.toNat = 2 ^ 7 - 1 := rfl
  simp only [binCodeOf, windowByte_eq_getD, BitVec.toNat_or, toNat_setWidth_shiftLeft _ (by decide : 24 ≤ 24),
    toNat_setWidth_shiftLeft _ (by decide : 16 ≤ 24), toNat_setWidth_shiftLeft _ (by decide : 8 ≤ 24),
    BitVec.toNat_setWidth_of_le (by decide : 8 ≤ 32), BitVec.toNat_and, and_mask hmask]
  exact or_byte_fields _ (BitVec.isLt _) (BitVec.isLt _) (BitVec.isLt _)

/-! ### TRUNC (43_totp_deriver.md R185, R186) -/

/-- What TRUNC does (R185): the truncation of the digest in its registers, the code as the result. -/
theorem execTrunc_eq {d : Digest} {o : BitVec 4} {b c : Word32} (h : truncate d = (o, b, c)) (s : State) :
    execTrunc d s = .next (State.complete (be c.toNat 4)
      { s.latch (.trunc d) with dig := d, off := o, bin := b, code := c }) := by
  simp only [execTrunc, State.completeCode, h]

/-- Settles O28: the offset and `binCode` are the numbers of `toNat_offsetOf` and `toNat_binCodeOf`, and a number below
`10^6` fits `CODE`. -/
theorem truncTakesTheWindowModulo : Obligations.TruncTakesTheWindowModulo := by
  intro d s o b
  have ho : (offsetOf d).toNat = o := toNat_offsetOf d
  have hb : (binCodeOf d (offsetOf d)).toNat = b := by rw [toNat_binCodeOf, ho]
  obtain ⟨-, hoff⟩ := BitVec.toNat_eq_nat.1 ho
  obtain ⟨-, hbin⟩ := BitVec.toNat_eq_nat.1 hb
  have htrunc : truncate d = (BitVec.ofNat 4 o, BitVec.ofNat 32 b, BitVec.ofNat 32 (b % 1000000)) := by
    rw [truncate, codeOf, hb, ← hoff, ← hbin]
    rfl
  have hcode : (BitVec.ofNat 32 (b % 1000000)).toNat = b % 1000000 := BitVec.toNat_eq_nat.2 ⟨by omega, rfl⟩
  have hx := execTrunc_eq htrunc s
  rw [hcode] at hx
  exact ⟨rfl, hb ▸ toNat_binCodeOf_lt d (offsetOf d), hx⟩

/-- The window ends before the last byte: the offset is at most 15. -/
theorem windowByte_eq_of_take_eq {d d' : Digest} (h : d.val.take 19 = d'.val.take 19) (o : BitVec 4) (i : Fin 4) :
    windowByte d o i = windowByte d' o i := by
  have hpos : o.toNat + i.val < 19 := by omega
  rw [windowByte_eq_getD, windowByte_eq_getD]
  simpa [List.getD, List.getElem?_take_of_lt hpos] using congrArg (·.getD (o.toNat + i.val) 0) h

/-- Settles O29: the last byte is read for its low nibble only, since the window ends before it. -/
theorem truncIgnoresTheLastHighNibble : Obligations.TruncIgnoresTheLastHighNibble := by
  intro d d' htake hlast
  have ho : offsetOf d = offsetOf d' :=
    BitVec.eq_of_toNat_eq ((toNat_offsetOf d).trans (hlast.trans (toNat_offsetOf d').symm))
  simp only [truncate, binCodeOf, ho, windowByte_eq_of_take_eq htake]

end Sys2Proof.Machine
end

section
/-! PROOFS. DERIVE: invalid secrets, the command from its frame to its response, and what its code depends on
(43_totp_deriver.md R190 to R195). -/

namespace Sys2Proof.Machine

/-! ### Invalid secrets (43_totp_deriver.md R194) -/

/-- A secret of the wrong length, or with a character that is no symbol, does not decode (41_base32_decoder.md R140). -/
theorem decode_of_invalid {a : List Byte} (h : a.length ≠ 32 ∨ ∃ c ∈ a, b32val (upper c) = none) :
    decode a = .error .invalidSecretFormat := by
  cases hk : decode a with
  | error e => rw [decode_error hk]
  | ok key =>
    obtain ⟨hlen, hsym⟩ := (exists_decode_ok_iff a).1 ⟨key, hk⟩
    obtain hne | ⟨c, hc, hnone⟩ := h
    · exact absurd hlen hne
    · obtain ⟨x, hx⟩ := hsym c hc
      cases hnone.symm.trans hx

/-- Settles O31: such a secret does not decode, and of the two cases of DERIVE that leaves the error. -/
theorem deriveFailsFast : Obligations.DeriveFailsFast := by
  intro secret t s hbad
  obtain ⟨k, hk, -⟩ | ⟨-, hx⟩ := execDerive_cases secret t s
  · cases (decode_of_invalid hbad).symm.trans hk
  · exact hx

/-! ### The counter's bytes and the code (43_totp_deriver.md R190, R192) -/

/-- Settles O33: bytes survive the detour through hex digits. -/
theorem counterBytesAreBigEndian : Obligations.CounterBytesAreBigEndian := counterBytes_eq

section
variable (sha1 : Frame → Digest) (u : Config.HexUpper) {secret : List Byte} (t : Word64) {key : Digest}

/-- The code of a valid secret (R190). -/
theorem deriveCode_of_ok (hk : decode secret = .ok key) :
    deriveCode sha1 u secret t = .ok (truncate (hmac sha1 key.val (be (counter t.toNat) 8))).2.2 := by
  simp only [deriveCode, hk, counterBytes_eq]

/-- The requests for a valid secret are those of its HMAC (R191). -/
theorem deriveRequests_of_ok (hk : decode secret = .ok key) :
    deriveRequests sha1 u secret t = hmacRequests sha1 key.val (be (counter t.toNat) 8) := by
  simp only [deriveRequests, hk, counterBytes_eq]

/-- The response to DERIVE is the one to TRUNC of the digest (R193). -/
theorem responseTo_derive_of_ok (hk : decode secret = .ok key) :
    responseTo sha1 u (.derive secret t) = responseTo sha1 u (.trunc (hmac sha1 key.val (be (counter t.toNat) 8))) := by
  simp only [responseTo, deriveCode_of_ok sha1 u t hk]

end

/-- Settles O34: the results of the chain are the key, the counter's bytes, their hex digits, the bytes again, the digest. -/
theorem deriveIsTheChainOfCommands : Obligations.DeriveIsTheChainOfCommands := by
  intro sha1 u secret t k hk
  let c := be (counter t.toNat) 8
  refine ⟨c, bytesToHex c, c, hmac sha1 k.val c, ?_, rfl, rfl, ?_, rfl, responseTo_derive_of_ok sha1 u t hk⟩
  · simp only [responseTo, hk]
    rfl
  · simp only [responseTo, hexToBytes_bytesToHex]
    rfl

/-- Settles O35: the time enters as the counter, the secret through `decode`, which folds its case. -/
theorem codeDependsOnWindowAndFoldedSecret : Obligations.CodeDependsOnWindowAndFoldedSecret := by
  intro sha1 u secret secret' t t' hfold hcounter
  simp only [deriveCode, counterBytes, decode_eq_of_map_upper_eq hfold, hcounter]

/-! ### From the frame to the response (43_totp_deriver.md R191) -/

/-- The block key of a 20-byte key is the key and 44 zeros (42_hmac_engine.md R160 step 2). -/
theorem val_blockKey_of_digest (sha1 : Frame → Digest) (key : Digest) :
    (blockKey sha1 key.val).val = key.val ++ List.replicate 44 0 := by
  have hlen : key.val.length = 20 := length_bytes key
  rw [val_blockKey_of_short sha1 (by omega), hlen]

/-- A key that needs no hashing has no request of its own (20_memory.md R57). -/
theorem hmacRequests_of_short (sha1 : Frame → Digest) {key : List Byte} (message : List Byte) (h : key.length ≤ 64) :
    hmacRequests sha1 key message =
      [ipad (blockKey sha1 key) ++ message, opad (blockKey sha1 key) ++ (innerHash sha1 key message).val] := by
  have hn : ¬Config.blockSize < key.length := Nat.not_lt.mpr h
  rw [hmacRequests, if_neg hn, List.nil_append]

/-- HMAC with a 20-byte key, written out with the block key `K` (42_hmac_engine.md R160). -/
theorem hmac_of_digest (sha1 : Frame → Digest) (key : Digest) (message : List Byte) :
    let K := key.val ++ List.replicate 44 0
    let inner := K.map (· ^^^ 0x36) ++ message
    let outer := K.map (· ^^^ 0x5c) ++ (sha1 inner).val
    hmacRequests sha1 key.val message = [inner, outer] ∧ hmac sha1 key.val message = sha1 outer := by
  intro K inner outer
  have hlen : key.val.length = 20 := length_bytes key
  have hK : (blockKey sha1 key.val).val = K := val_blockKey_of_digest sha1 key
  have hinner : ipad (blockKey sha1 key.val) ++ message = inner := by rw [ipad, hK]; rfl
  have houter : opad (blockKey sha1 key.val) ++ (innerHash sha1 key.val message).val = outer := by
    rw [opad, hK, innerHash, hinner]; rfl
  exact ⟨by rw [hmacRequests_of_short sha1 message (by omega), hinner, houter], congrArg sha1 houter⟩

/-- Settles O32: the run is that of the big-step view (`runs_presented`), for a valid secret with the requests and the
digest of `hmac_of_digest`. -/
theorem deriveCommandRunsToItsResponse : Obligations.DeriveCommandRunsToItsResponse := by
  intro s f rest sha1 secret t hs hc hi
  have hr := runs_presented hs hc hi
  have hframe : encode (.derive secret t) = f := encode_of_parse hi
  refine ⟨hframe.symm, fun key hk => ?_, fun e he => ?_⟩
  · obtain ⟨hreq, hdigest⟩ := hmac_of_digest sha1 key (be (counter t.toNat) 8)
    rw [execTransitions, hk, requestsOf, deriveRequests_of_ok sha1 _ t hk, hreq, responseTo_derive_of_ok sha1 _ t hk,
      hdigest] at hr
    exact hr
  · simp only [execTransitions, requestsOf, deriveRequests, responseTo, deriveCode, he, decode_error he] at hr
    exact hr

/-- Settles O59: the machine's functions evaluated on the example, four compressions of the reference SHA-1. -/
theorem deriveExampleCode : Obligations.DeriveExampleCode := by
  unfold Obligations.DeriveExampleCode
  decide +kernel

end Sys2Proof.Machine
end

section
/-! PROOFS. The reference collaborator: its padding and its check values (44_sha1_collaborator.md). -/

namespace Sys2Proof.Sha1

/-- `n` bytes, the byte `0x80`, the zeros and the 8 bytes of the length fill whole blocks (R214). -/
theorem mod_padZeros (n : Nat) : (n + 1 + padZeros n + 8) % 64 = 0 := by
  rw [padZeros]
  omega

/-- No smaller number of zeros fills whole blocks (R214). -/
theorem padZeros_le {n z : Nat} (h : (n + 1 + z + 8) % 64 = 0) : padZeros n ≤ z := by
  rw [padZeros]
  omega

/-- The length of the padded message, part by part (R214). -/
theorem length_pad (m : List Byte) : (pad m).length = m.length + 1 + padZeros m.length + 8 := by
  simp only [pad, List.length_append, List.length_singleton, List.length_replicate, length_be]

/-- Settles O57: `padZeros` is the number of zeros; it fills the last block, and no smaller number does. -/
theorem sha1PaddingFillsBlocks : Obligations.Sha1PaddingFillsBlocks := by
  intro m
  have hfill : (pad m).length % 64 = 0 := by rw [length_pad, mod_padZeros]
  have hpos : 0 < (pad m).length := by rw [length_pad]; omega
  exact ⟨padZeros m.length, rfl, rfl, hfill, hpos, fun _ => padZeros_le⟩

/-- Settles O58: the reference evaluated on the three messages, four compressions in all. -/
theorem sha1CheckValues : Obligations.Sha1CheckValues := by
  unfold Obligations.Sha1CheckValues
  decide +kernel

end Sys2Proof.Sha1
end

section
/-! PROOFS. Which frame error is reported (60_exceptions.md R241, R242, R246; 30_encoding.md R88). -/

namespace Sys2Proof

section
variable {r : List Byte} {e : FrameError}

/-! ### Behind its opcode a frame is malformed or a command (30_encoding.md R88) -/

theorem takeBlob_error (h : takeBlob r = .error e) : e = .malformedFrame := by
  unfold takeBlob at h
  split at h
  · cases h; rfl
  · split at h <;> cases h
    rfl

theorem takeFixed_error {n : Nat} (h : takeFixed n r = .error e) : e = .malformedFrame := by
  unfold takeFixed at h
  split at h <;> cases h
  rfl

theorem endFrame_error {i : Instr} (h : endFrame i r = .error e) : e = .malformedFrame := by
  cases r <;> cases h
  rfl

theorem parseB_error {mk : List Byte → Instr} (h : parseB mk r = .error e) : e = .malformedFrame := by
  unfold parseB at h
  split at h
  · next ha => cases h; exact takeBlob_error ha
  · exact endFrame_error h

theorem parseB2hex_error (h : parseB2hex r = .error e) : e = .malformedFrame := by
  unfold parseB2hex at h
  split at h
  · next ha => cases h; exact takeBlob_error ha
  · split at h
    · cases h; rfl
    · exact endFrame_error h

theorem parseT_error {mk : Word64 → Instr} (h : parseT mk r = .error e) : e = .malformedFrame := by
  unfold parseT at h
  split at h
  · next ht => cases h; exact takeFixed_error ht
  · exact endFrame_error h

theorem parseD_error {mk : Digest → Instr} (h : parseD mk r = .error e) : e = .malformedFrame := by
  unfold parseD at h
  split at h
  · next hd => cases h; exact takeFixed_error hd
  · exact endFrame_error h

/-- Behind its first blob format `BB` reads format `B` (30_encoding.md R84). -/
theorem parseBB_error {mk : List Byte → List Byte → Instr} (h : parseBB mk r = .error e) : e = .malformedFrame := by
  unfold parseBB at h
  split at h
  · next ha => cases h; exact takeBlob_error ha
  · next a r' _ => exact parseB_error (mk := mk a) h

/-- Behind its blob format `BT` reads format `T` (30_encoding.md R84). -/
theorem parseBT_error {mk : List Byte → Word64 → Instr} (h : parseBT mk r = .error e) : e = .malformedFrame := by
  unfold parseBT at h
  split at h
  · next ha => cases h; exact takeBlob_error ha
  · next a r' _ => exact parseT_error (mk := mk a) h

/-! ### The opcode decides first (60_exceptions.md R246) -/

/-- A reserved opcode is reported whatever follows it (60_exceptions.md R241). -/
theorem parse_of_reserved {op : Byte} (r : List Byte) (h : op.toNat = 0 ∨ 9 ≤ op.toNat) :
    parse (op :: r) = .error .illegalCommand := by
  simp only [parse]
  split
  case h_9 => rfl
  all_goals omega

/-- After an assigned opcode every frame error is a malformed frame (60_exceptions.md R242). -/
theorem parse_error_of_assigned {op : Byte} (h1 : 1 ≤ op.toNat) (h8 : op.toNat ≤ 8)
    (h : parse (op :: r) = .error e) : e = .malformedFrame := by
  obtain rfl | rfl | rfl | rfl | rfl | rfl | rfl | rfl := opcode_assigned h1 h8
  · exact parseB_error (mk := .hex2b) h
  · exact parseB2hex_error h
  · exact parseB_error (mk := .b32dec) h
  · exact parseBB_error (mk := .hmac) h
  · exact parseT_error (mk := .ctr) h
  · exact parseD_error (mk := .trunc) h
  · exact parseBT_error (mk := .derive) h
  · exact parseT_error (mk := .secrem) h

end

/-- Settles O3: the empty frame by definition, a reserved opcode by `parse_of_reserved`, any other frame error by
`parse_error_of_assigned`. -/
theorem frameErrorPriority : Obligations.FrameErrorPriority :=
  ⟨rfl, fun _ r => parse_of_reserved r, fun _ _ _ => parse_error_of_assigned⟩

end Sys2Proof
end

section
/-! PROOFS. Error and success responses, and that the block never stops (60_exceptions.md R240, R245, R247). -/

namespace Sys2Proof.Machine

section
variable {s : State}

theorem response_of_ok (h : s.err = 0x00) : s.response = 0x00 :: s.res := if_pos h

theorem response_of_error (h : s.err ≠ 0x00) : s.response = [s.err] := if_neg h

/-- The codes in `ERR` other than `OK` (30_encoding.md R90). -/
theorem State.Inv.err_of_error (hi : s.Inv) (h : s.err ≠ 0x00) :
    s.err = 0x01 ∨ s.err = 0x02 ∨ s.err = 0x80 ∨ s.err = 0x81 := by
  have hmem : s.err = 0x00 ∨ s.err = 0x01 ∨ s.err = 0x02 ∨ s.err = 0x80 ∨ s.err = 0x81 := by
    simpa [emittedStatuses, statusOk, commandStatus, frameStatus] using hi.err_emitted
  exact hmem.resolve_left h

/-! ### Which transitions answer a next state -/

/-- Waiting answers a next state where the transition on the reply does (70_reset_and_hazards.md R287). -/
theorem awaitReply_answers {k : Digest → State → Outcome} (hk : ∀ r c, ∃ t, k r (s.reply r c) = .next t) :
    ∃ t, awaitReply k s = .next t := by
  obtain hx | ⟨m, r, c, -, -, hx⟩ := awaitReply_cases k s
  · exact ⟨s, hx⟩
  · rw [hx]
    exact hk r c

/-- The outer-hash reply has a case for the two commands that wait for it (10_state.md R34). -/
theorem onOuterHash_answers (r : Digest) (h : s.op = 0x04 ∨ s.op = 0x07) : ∃ t, onOuterHash r s = .next t := by
  obtain ⟨-, hx⟩ | ⟨-, hx⟩ | ⟨h4, h7, -⟩ := onOuterHash_cases r s
  · exact ⟨_, hx⟩
  · exact ⟨_, hx⟩
  · obtain h | h := h
    · exact absurd (congrArg BitVec.toNat h) h4
    · exact absurd (congrArg BitVec.toNat h) h7

end

/-- Settles O39: `ERR` chooses the form of the response; the invariant has a nonempty `RES` at a success, and only codes
of R90 in `ERR`. -/
theorem errorsAreToldByTheFrame : Obligations.ErrorsAreToldByTheFrame := by
  intro s hi hp
  refine ⟨fun h => ?_, fun h => ⟨response_of_error h, hi.err_of_error h⟩⟩
  have hres : 0 < s.res.length := List.length_pos_of_ne_nil (hi.res_nonempty hp h)
  rw [response_of_ok h]
  exact ⟨Nat.succ_le_succ hres, rfl⟩

/-- Settles O48: one case for each rule of 10_state.md section 7. The invariant excludes the two stops of the model: EXEC
without a latched command, and WAIT_OUTER without HMAC or DERIVE. -/
theorem blockNeverStops : Obligations.BlockNeverStops := by
  intro s hi
  obtain ⟨-, hs⟩ | ⟨-, ⟨-, hs⟩ | ⟨-, i, -, hs⟩ | ⟨hp, hl, -⟩ | ⟨-, hs⟩ | ⟨-, hs⟩ | ⟨hp, hs⟩ | ⟨-, hs⟩⟩ := step_cases s
  · exact ⟨_, hs⟩
  · exact ⟨_, hs⟩
  · rw [hs]
    exact exec_answers i s
  · obtain ⟨i, hsome, -⟩ := hi.latched_wf hp
    cases hl.symm.trans hsome
  · rw [hs]
    exact awaitReply_answers fun _ _ => ⟨_, rfl⟩
  · rw [hs]
    exact awaitReply_answers fun _ _ => ⟨_, rfl⟩
  · rw [hs]
    exact awaitReply_answers fun r _ => onOuterHash_answers r (hi.wait_op (hp ▸ rfl))
  · exact ⟨_, hs⟩

end Sys2Proof.Machine
end

section
/-! PROOFS. Waiting, for the collaborator and for the host (70_reset_and_hazards.md R286 item 3, R287), the commands that
wait for neither (R284), and the state after reset (R280). -/

namespace Sys2Proof.Machine

/-! ### Waiting for the collaborator (70_reset_and_hazards.md R287) -/

section
variable {s : State} {m : Frame}

/-- Without an answer the wait goes on (93_implementation_defined.md U4). -/
theorem awaitReply_of_silent {k : Digest → State → Outcome} (hm : s.hashPort = some m)
    (ha : s.collaborator.answer m = none) : awaitReply k s = .next s := by
  simp [awaitReply, hm, ha]

/-- In a `WAIT_` phase, but for reset, a transition waits for the reply, which adds at most the next request to the trace
(10_state.md R32 to R34). -/
theorem step_of_waiting (hn : s.resetIn = false) (hw : s.phase.waiting = true) :
    ∃ k, AddsAtMostARequest k ∧ step s = awaitReply k s := by
  cases hp : s.phase with
  | waitKeyhash => exact ⟨onKeyHash, onKeyHash_adds, by simp [step, hn, hp]⟩
  | waitInner => exact ⟨onInnerHash, onInnerHash_adds, by simp [step, hn, hp]⟩
  | waitOuter => exact ⟨onOuterHash, onOuterHash_adds, by simp [step, hn, hp]⟩
  | idle | exec | respond => simp [hp, Phase.waiting] at hw

end

/-- Settles O43: every `WAIT_` phase is `awaitReply`, which does nothing without an answer; with one, the reply comes first
in what the transition adds to the trace. -/
theorem waitsEndOnlyByReplyOrReset : Obligations.WaitsEndOnlyByReplyOrReset := by
  refine ⟨fun s m hn hw hm ha => ?_, fun s t hw h => ?_⟩
  · obtain ⟨k, -, hs⟩ := step_of_waiting hn hw
    exact hs.trans (awaitReply_of_silent hm ha)
  cases hn : s.resetIn with
  | true =>
    cases (step_reset hn).symm.trans h
    exact .inr (.inl rfl)
  | false =>
    obtain ⟨k, hk, hs⟩ := step_of_waiting hn hw
    rw [hs] at h
    obtain hx | ⟨m, r, c, -, -, hx⟩ := awaitReply_cases k s
    · cases hx.symm.trans h
      exact .inl rfl
    · obtain ⟨-, htr | ⟨m', htr⟩⟩ := hk (hx.symm.trans h)
      · exact .inr (.inr ⟨r, [], htr⟩)
      · exact .inr (.inr ⟨r, [.hashReq m'], by simp [htr]⟩)

/-! ### Commands that issue no request (70_reset_and_hazards.md R284) -/

/-- Such a command makes its response due in its execute transition, and leaves the outside and the trace as they are
(10_state.md R31). Its response is that of any `sha1`. -/
theorem exec_of_no_request {i : Instr} (hhmac : ∀ k m, i ≠ .hmac k m)
    (hderive : ∀ a n k, i = .derive a n → decode a ≠ .ok k) (sha1 : Frame → Digest) (s : State) :
    ∃ t, exec i s = .next t ∧ t.phase = .respond ∧ t.cleared = s.cleared ∧
      t.response = responseTo sha1 s.hexUpper i := by
  cases i with
  | hex2b a =>
    obtain ⟨b, hb, hx⟩ | ⟨hb, hx⟩ := execHex2b_cases a s
    · exact ⟨_, hx, rfl, rfl, by simp [responseTo, hb]⟩
    · exact ⟨_, hx, rfl, rfl, by simp only [responseTo, hb]; rfl⟩
  | b2hex a => exact ⟨_, rfl, rfl, rfl, rfl⟩
  | b32dec a =>
    obtain ⟨k, hk, hx⟩ | ⟨hk, hx⟩ := execB32dec_cases a s
    · exact ⟨_, hx, rfl, rfl, by simp [responseTo, hk]⟩
    · exact ⟨_, hx, rfl, rfl, by simp only [responseTo, hk]; rfl⟩
  | hmac key message => exact absurd rfl (hhmac key message)
  | ctr t => exact ⟨_, execCtr_eq t s, rfl, rfl, rfl⟩
  | trunc d => exact ⟨_, rfl, rfl, rfl, rfl⟩
  | derive secret t =>
    obtain ⟨k, hk, -⟩ | ⟨hk, hx⟩ := execDerive_cases secret t s
    · exact absurd hk (hderive secret t k rfl)
    · exact ⟨_, hx, rfl, rfl, by simp only [responseTo, deriveCode, hk]; rfl⟩
  | secrem t => exact ⟨_, rfl, rfl, rfl, rfl⟩

/-- A host that takes responses gets one at once (10_state.md R35). -/
theorem step_respond_of_ready {s : State} (hn : s.resetIn = false) (hp : s.phase = .respond) (hy : s.rspReady = true) :
    step s = .next { s.cleared with trace := s.trace ++ [.rsp s.response] } :=
  (step_respond hn hp).trans (congrArg _ (if_pos hy))

/-- Settles O44: the frame is accepted, the command executed (`exec_of_no_request`), the response taken; the
collaborator is asked in none of the three transitions. -/
theorem commandsWithoutRequestsNeedNoCollaborator : Obligations.CommandsWithoutRequestsNeedNoCollaborator := by
  intro s f rest i hs hi hhmac hderive sha1
  let taken : State := { s with cmdPort := rest, trace := s.trace ++ [.cmd f] }
  have hidle : s.cleared = s := hs.idle
  have haccept : step s = .next (taken.latch i) :=
    (step_of_port (congrArg State.phase hidle).symm hs.no_reset hs.port).trans (congrArg _ (load_of_ok hi taken))
  obtain ⟨t, hexec, hp, hc, hresponse⟩ := exec_of_no_request hhmac hderive sha1 (taken.latch i)
  have hn : t.resetIn = false := (congrArg State.resetIn hc).trans hs.no_reset
  have hready : t.rspReady = true := (congrArg State.rspReady hc).trans hs.ready
  have htrace : t.trace = s.trace ++ [.cmd f] := congrArg State.trace hc
  have hend : s.answered sha1 f rest [] (responseTo sha1 s.hexUpper i) =
      { t.cleared with trace := t.trace ++ [.rsp t.response] } := by
    rw [← congrArg (State.answered · sha1 f rest [] _) hidle, hc, hresponse, htrace]
    simp [State.answered, State.cleared, hashEvents, taken]
  rw [hend]
  exact runs_succ haccept (runs_succ ((step_latch i (s := taken) hs.no_reset).trans hexec)
    (runs_succ (step_respond_of_ready hn hp hready) (runs_zero _)))

/-! ### Waiting for the host, and reset (70_reset_and_hazards.md R286 item 3, R280) -/

/-- Settles O38: responding does nothing while the host is not ready. -/
theorem responseWaitsForTheHost : Obligations.ResponseWaitsForTheHost := by
  intro s hn hp hy
  have hx : s.respond = s := if_neg (by simp [hy])
  rw [step_respond hn hp, hx]

/-- Settles O45: the reset state is idle. -/
theorem resetMeetsTheInvariant : Obligations.ResetMeetsTheInvariant :=
  State.Idle.inv rfl

end Sys2Proof.Machine
end

section
/-! PROOFS. What responding leaves of the outside, and reset with it (10_state.md R35, R36; logs 4 and 10). -/

namespace Sys2Proof.Machine

/-- Responding takes no frame from the CMD port and does not touch the reset input. -/
theorem respond_inputs (s : State) : s.respond.cmdPort = s.cmdPort ∧ s.respond.resetIn = s.resetIn := by
  obtain ⟨-, h⟩ | ⟨-, h⟩ := respond_cases s <;> rw [h] <;> exact ⟨rfl, rfl⟩

/-- Settles O41: with reset asserted the transition is `resetNow`, which releases it; otherwise it is the response, which
keeps the inputs (`respond_inputs`) and the parameters (`respond_sameParameters`). -/
theorem respondAndResetLeaveTheOutside : Obligations.RespondAndResetLeaveTheOutside := by
  intro s t hs h
  cases hn : s.resetIn with
  | true =>
    cases (step_reset hn).symm.trans h
    exact ⟨rfl, rfl, rfl, rfl, rfl⟩
  | false =>
    have hp : s.phase = .respond := hs.resolve_left (by simp [hn])
    cases (step_respond hn hp).symm.trans h
    obtain ⟨hcmd, hreset⟩ := respond_inputs s
    obtain ⟨hhex, hready, hcollaborator⟩ := respond_sameParameters s
    exact ⟨hcmd, hready, hhex, hcollaborator, hreset.trans hn⟩

end Sys2Proof.Machine
end
